-- ==== Sys2Proof/Word.lean ====
section
/-! DEFINITION. The widths of the machine's values (00_scope.md R7, R9, R11). -/

namespace Sys2Proof

/-- A byte of memory, the contents of a general register, or the immediate NN. -/
abbrev Byte := BitVec 8

/-- An instruction word, the address register I, the program counter or a return address. -/
abbrev Word := BitVec 16

/-- The index of a general register V0-VF, as the X and Y fields give it (R16). -/
abbrev Reg := BitVec 4

/-- The 4-bit field N: a sprite's height, or a sub-operation (R66). -/
abbrev Nibble := BitVec 4

/-- The 12-bit address field NNN (R66). -/
abbrev Addr12 := BitVec 12

end Sys2Proof
end

