-- ==== Sys2Proof/Config.lean ====
section
/-! DEFINITION. The configuration the spec leaves open (00_scope.md R8) and the free values: answers
of the ports that no rule fixes (10_state.md R37). A free value is opaque: nothing can be proved of it. -/

namespace Sys2Proof

/-- `STACK_DEPTH` (R8, R25, D4): a bound on the number of call-stack entries, or `UNBOUNDED`. -/
inductive StackDepth where
  /-- At most `n` entries; the default is 16. -/
  | bounded (n : Nat)
  /-- No limit. -/
  | unbounded
  deriving DecidableEq, Repr

/-- The default of `STACK_DEPTH` (R8, D4). -/
def Config.defaultStackDepth : StackDepth := .bounded 16

/-- The default of `INPUT_ATTACHED` (R8, D16). -/
def Config.defaultInputAttached : Bool := true

/-- `GLYPH_ADDR` (R46, D18): the address FX29 gives for a value of VX. The spec leaves it OPEN.
Log entry 2. -/
opaque Config.glyphAddr : Byte → Word

/-- The answer of the `n`-th call of `Rng()` (R42): any byte. Log entry 3. -/
opaque Config.rngByte : Nat → Byte

/-- The answer of the `n`-th call of `KeyDown(k)`, for every byte `k` (R43, D17): either Boolean.
Log entry 4. -/
opaque Config.keyDown : Nat → Byte → Bool

/-- The answer of the `n`-th call of `NextKey()` (R43): no key, or a 4-bit key code. Log entry 5. -/
opaque Config.nextKey : Nat → Option Nibble

/-- How many `Tick()` events of the timer device fall right before the `n`-th step of the engine, after the step
before it (R64, R85, R139): any number. Log entry 6. -/
opaque Config.ticks : Nat → Nat

end Sys2Proof
end

