-- ==== Sys2Proof/Machine/State.lean ====
section
/-! DEFINITION. The machine's state as plain data, and its value at reset (10_state.md R16-R39,
60_exceptions.md R139, 70_reset_and_hazards.md R144). -/

namespace Sys2Proof.Machine

/-- RUN_STATE (R30). The reserved value 3 is never produced and has no constructor (U19). -/
inductive RunState where
  /-- 0: the next step fetches and executes an instruction. -/
  | running
  /-- 1: the engine waits for a key. -/
  | awaitKey
  /-- 2: no further step changes state. -/
  | halted
  deriving DecidableEq, Repr

/-- HALT_REASON (R31). The reserved values 5-7 are never produced and have no constructor (U19). -/
inductive HaltReason where
  /-- 0: not halted. -/
  | none
  /-- 1: normal halt, a fetch with PC ≥ 0x1000. -/
  | endOfMemory
  /-- 2: fatal, 00EE with an empty stack. -/
  | stackUnderflow
  /-- 3: fatal, a fetch at PC = 0xFFF or a data access at an address ≥ 0x1000. -/
  | outOfBounds
  /-- 4: fatal, a push on a full stack. -/
  | stackOverflow
  deriving DecidableEq, Repr

/-- The output event `UnknownOpcode(pc, w)` (R47, R83). -/
structure Event where
  pc : Word
  word : Word
  deriving DecidableEq, Repr

/-- The memory image M (R35, R48) in canonical form: (address, byte) pairs, addresses strictly
rising, no entry equal to what an unlisted address reads as (Machine/Memory.lean). -/
abbrev Memory := List Host.Cell

/-- The framebuffer FB (R29): 32 rows of 64 one-bit pixels. The pixel at column x of row y is bit x
of row y. Log entry 17. -/
abbrev Framebuffer := Vector (BitVec 64) 32

/-- Reasons for a step to end in a fault. There is none: every error of the spec is a halt, whose
whole effect the spec states (60_exceptions.md R129), and so is a next state. Nothing raises a
fault, which is safe. Log entry 9. -/
inductive Fault where
  deriving DecidableEq, Repr

/-- Reasons for a step to have no meaning. -/
inductive Refusal where
  /-- Raised by an arm of `exec` whose instruction has no meaning yet; no arm is left that does.
  Safe: the model stops where the hardware goes on. -/
  | notModelled (mnemonic : String)
  deriving DecidableEq, Repr

/-- Everything the spec gives the machine, the reference timer device, the configuration, and the
model's own numbering of port calls. -/
structure State where
  /-- V0-VF, the general registers (R16); VF is `v[15]` (R17). -/
  v : Vector Byte 16
  /-- I, the address register (R19). -/
  i : Word
  /-- PC, the program counter (R20). -/
  pc : Word
  /-- STACK (R25), the most recent entry first; SP is its length. Entries at SP and above are not
  represented (R26). Log entry 14. -/
  stack : List Word
  /-- FB, the framebuffer (R29). -/
  fb : Framebuffer
  /-- M, the memory (R35, R48). -/
  mem : Memory
  /-- RUN_STATE (R30). -/
  runState : RunState
  /-- HALT_REASON (R31). -/
  haltReason : HaltReason
  /-- FAULT_WORD (R32). -/
  faultWord : Word
  /-- FAULT_WORD_VALID (R32). -/
  faultWordValid : Bool
  /-- WAIT_X (R33). -/
  waitX : Reg
  /-- DT, the delay counter of the reference timer device (R139). Log entry 6. -/
  dt : Byte
  /-- ST, the sound counter of the reference timer device (R139). Log entry 6. -/
  st : Byte
  /-- STACK_DEPTH, configuration (R8, R25). Log entry 1. -/
  stackDepth : StackDepth
  /-- INPUT_ATTACHED, configuration (R8, R43). Log entry 1. -/
  inputAttached : Bool
  /-- The model's own: how many times `Rng()` has been called. Log entry 8. -/
  rngCalls : Nat
  /-- The model's own: how many times `KeyDown` has been called. Log entry 8. -/
  keyDownCalls : Nat
  /-- The model's own: how many times `NextKey()` has been called. Log entry 8. -/
  nextKeyCalls : Nat
  /-- The model's own: how many times ticks have been taken before a step. Log entry 8. -/
  tickDraws : Nat
  /-- The model's own: the output events so far, oldest first (R47). Log entry 12. -/
  trace : List Event
  deriving DecidableEq, Repr

/-- The machine right after reset (R38, R144), with the timer device at its own reset (R139) and the
configuration at its defaults (R8). -/
def State.reset : State where
  v := Vector.replicate 16 0x00#8
  i := 0x0000#16
  pc := 0x200#16
  stack := []
  fb := Vector.replicate 32 0#64
  mem := []
  runState := .running
  haltReason := .none
  faultWord := 0x0000#16
  faultWordValid := false
  waitX := 0x0#4
  dt := 0x00#8
  st := 0x00#8
  stackDepth := Config.defaultStackDepth
  inputAttached := Config.defaultInputAttached
  rngCalls := 0
  keyDownCalls := 0
  nextKeyCalls := 0
  tickDraws := 0
  trace := []

/-- What a step or an instruction's meaning answers. -/
abbrev StepResult := Host.Outcome State Fault Refusal

end Sys2Proof.Machine
end

