-- ==== Sys2Proof/Machine/Flags.lean ====
section
/-! DEFINITION. The values VF receives (43_alu.md R99, 45_display.md R121). Every flag value is 0x00 or 0x01. -/

namespace Sys2Proof.Machine

/-- A condition as a flag value (R17, R99). -/
def flagByte (c : Bool) : Byte := if c then 0x01#8 else 0x00#8

/-- Carry (R99, R104): the exact sum exceeds 255. -/
def carryFlag (a b : Byte) : Byte := flagByte (decide (a.toNat + b.toNat > 255))

/-- No borrow (R99, R105, R107): the minuend is at least the subtrahend. -/
def noBorrowFlag (minuend subtrahend : Byte) : Byte :=
  flagByte (decide (minuend.toNat ≥ subtrahend.toNat))

/-- The bit a right shift drops (R106). -/
def shiftRightFlag (a : Byte) : Byte := a &&& 1#8

/-- The bit a left shift drops (R108). -/
def shiftLeftFlag (a : Byte) : Byte := (a >>> 7) &&& 1#8

/-- Collision (R121): a set pixel was erased. -/
def collisionFlag (collided : Bool) : Byte := flagByte collided

end Sys2Proof.Machine
end

