-- ==== Sys2Proof/Syntax.lean ====
section
/-! DEFINITION. The instruction set: one constructor per row of the opcode map (30_encoding.md R71). -/

namespace Sys2Proof

/-- The 35 instructions. Operand names are the spec's field names (R66). -/
inductive Instr where
  /-- 00E0, clear the framebuffer (R120). -/
  | cls
  /-- 00EE, return from subroutine (R87). -/
  | ret
  /-- 0NNN except 00E0 and 00EE, call subroutine (R88). -/
  | sys (nnn : Addr12)
  /-- 1NNN, jump (R89). -/
  | jp (nnn : Addr12)
  /-- 2NNN, call subroutine (R90). -/
  | call (nnn : Addr12)
  /-- 3XNN, skip if VX = NN (R91). -/
  | seImm (x : Reg) (nn : Byte)
  /-- 4XNN, skip if VX ≠ NN (R92). -/
  | sneImm (x : Reg) (nn : Byte)
  /-- 5XY0, skip if VX = VY (R93). -/
  | seReg (x y : Reg)
  /-- 6XNN, load an immediate (R96). -/
  | ldImm (x : Reg) (nn : Byte)
  /-- 7XNN, add an immediate without carry (R97). -/
  | addImm (x : Reg) (nn : Byte)
  /-- 8XY0, copy VY to VX (R100). -/
  | ldReg (x y : Reg)
  /-- 8XY1, bitwise or (R101). -/
  | or (x y : Reg)
  /-- 8XY2, bitwise and (R102). -/
  | and (x y : Reg)
  /-- 8XY3, bitwise exclusive or (R103). -/
  | xor (x y : Reg)
  /-- 8XY4, add with carry into VF (R104). -/
  | addReg (x y : Reg)
  /-- 8XY5, subtract VY from VX, no-borrow into VF (R105). -/
  | sub (x y : Reg)
  /-- 8XY6, shift VX right; the Y field is kept from the word and ignored (R106, R69, R73). -/
  | shr (x y : Reg)
  /-- 8XY7, subtract VX from VY, no-borrow into VF (R107). -/
  | subn (x y : Reg)
  /-- 8XYE, shift VX left; the Y field is kept from the word and ignored (R108, R69, R73). -/
  | shl (x y : Reg)
  /-- 9XY0, skip if VX ≠ VY (R94). -/
  | sneReg (x y : Reg)
  /-- ANNN, load an address into I (R111). -/
  | ldI (nnn : Addr12)
  /-- BNNN, jump to NNN plus V0 (R95). -/
  | jpV0 (nnn : Addr12)
  /-- CXNN, a random byte ANDed with NN (R98). -/
  | rnd (x : Reg) (nn : Byte)
  /-- DXYN, draw a sprite of N rows (R121). -/
  | drw (x y : Reg) (n : Nibble)
  /-- EX9E, skip if key VX is down (R122). -/
  | skp (x : Reg)
  /-- EXA1, skip if key VX is up (R123). -/
  | sknp (x : Reg)
  /-- FX07, read the delay timer (R124). -/
  | ldVxDt (x : Reg)
  /-- FX0A, wait for a key (R125). -/
  | ldVxK (x : Reg)
  /-- FX15, set the delay timer (R127). -/
  | ldDtVx (x : Reg)
  /-- FX18, set the sound timer (R128). -/
  | ldStVx (x : Reg)
  /-- FX1E, add VX to I (R112). -/
  | addI (x : Reg)
  /-- FX29, point I at the glyph for VX (R113). -/
  | ldF (x : Reg)
  /-- FX33, store the decimal digits of VX (R114). -/
  | ldB (x : Reg)
  /-- FX55, store V0 to VX (R115). -/
  | ldMemVx (x : Reg)
  /-- FX65, load V0 to VX (R116). -/
  | ldVxMem (x : Reg)
  deriving DecidableEq, Repr

end Sys2Proof
end

