-- ==== Sys2Proof/Decode.lean ====
section
/-! DEFINITION. The instruction word's fields, the decoder and the encoder (30_encoding.md R65-R74). -/

namespace Sys2Proof

/-- What a 16-bit word decodes to (R70): an instruction of the opcode map, or UNKNOWN, which carries
the word and has a meaning of its own (40_execution_loop.md R83). Log entry 11. -/
inductive Decoded where
  | instr (i : Instr)
  | unknown (w : Word)
  deriving DecidableEq, Repr

/-- Why bytes hold no instruction word. -/
inductive DecodeError where
  /-- Fewer than the two bytes of a word (R65) are there. -/
  | truncated
  deriving DecidableEq, Repr

/-! ## Fields (R66) -/

/-- The family nibble, bits 15..12. -/
def fieldOp (w : Word) : Nibble := w.extractLsb' 12 4

/-- X, bits 11..8. -/
def fieldX (w : Word) : Reg := w.extractLsb' 8 4

/-- Y, bits 7..4. -/
def fieldY (w : Word) : Reg := w.extractLsb' 4 4

/-- N, bits 3..0. -/
def fieldN (w : Word) : Nibble := w.extractLsb' 0 4

/-- NN, bits 7..0. -/
def fieldNN (w : Word) : Byte := w.extractLsb' 0 8

/-- NNN, bits 11..0. -/
def fieldNNN (w : Word) : Addr12 := w.extractLsb' 0 12

/-- The big-endian word of two bytes: the byte at the lower address is bits 15..8 (R65, R53). -/
def wordOfBytes (hi lo : Byte) : Word := hi ++ lo

/-- The byte of a word that is stored at the lower address (R53). -/
def wordHi (w : Word) : Byte := w.extractLsb' 8 8

/-- The byte of a word that is stored at the higher address (R53). -/
def wordLo (w : Word) : Byte := w.extractLsb' 0 8

/-! ## Decoder (R70) -/

/-- Family 0: the exact words 00E0 and 00EE first, every other word a call (R70, D27). -/
def decode0 (w : Word) : Decoded :=
  if w = 0x00E0#16 then .instr .cls
  else if w = 0x00EE#16 then .instr .ret
  else .instr (.sys (fieldNNN w))

/-- Family 8: the low nibble selects the operation (R70, conflict C2). -/
def decode8 (w : Word) : Decoded :=
  match fieldN w with
  | 0x0#4 => .instr (.ldReg (fieldX w) (fieldY w))
  | 0x1#4 => .instr (.or (fieldX w) (fieldY w))
  | 0x2#4 => .instr (.and (fieldX w) (fieldY w))
  | 0x3#4 => .instr (.xor (fieldX w) (fieldY w))
  | 0x4#4 => .instr (.addReg (fieldX w) (fieldY w))
  | 0x5#4 => .instr (.sub (fieldX w) (fieldY w))
  | 0x6#4 => .instr (.shr (fieldX w) (fieldY w))
  | 0x7#4 => .instr (.subn (fieldX w) (fieldY w))
  | 0xE#4 => .instr (.shl (fieldX w) (fieldY w))
  | _ => .unknown w

/-- Family E: the low byte selects the operation (R70). -/
def decodeE (w : Word) : Decoded :=
  match fieldNN w with
  | 0x9E#8 => .instr (.skp (fieldX w))
  | 0xA1#8 => .instr (.sknp (fieldX w))
  | _ => .unknown w

/-- Family F: the low byte selects the operation (R70). -/
def decodeF (w : Word) : Decoded :=
  match fieldNN w with
  | 0x07#8 => .instr (.ldVxDt (fieldX w))
  | 0x0A#8 => .instr (.ldVxK (fieldX w))
  | 0x15#8 => .instr (.ldDtVx (fieldX w))
  | 0x18#8 => .instr (.ldStVx (fieldX w))
  | 0x1E#8 => .instr (.addI (fieldX w))
  | 0x29#8 => .instr (.ldF (fieldX w))
  | 0x33#8 => .instr (.ldB (fieldX w))
  | 0x55#8 => .instr (.ldMemVx (fieldX w))
  | 0x65#8 => .instr (.ldVxMem (fieldX w))
  | _ => .unknown w

/-- The decoder (R70): total, each word one instruction or UNKNOWN. -/
def decode (w : Word) : Decoded :=
  match fieldOp w with
  | 0x0#4 => decode0 w
  | 0x1#4 => .instr (.jp (fieldNNN w))
  | 0x2#4 => .instr (.call (fieldNNN w))
  | 0x3#4 => .instr (.seImm (fieldX w) (fieldNN w))
  | 0x4#4 => .instr (.sneImm (fieldX w) (fieldNN w))
  | 0x5#4 => if fieldN w = 0x0#4 then .instr (.seReg (fieldX w) (fieldY w)) else .unknown w
  | 0x6#4 => .instr (.ldImm (fieldX w) (fieldNN w))
  | 0x7#4 => .instr (.addImm (fieldX w) (fieldNN w))
  | 0x8#4 => decode8 w
  | 0x9#4 => if fieldN w = 0x0#4 then .instr (.sneReg (fieldX w) (fieldY w)) else .unknown w
  | 0xA#4 => .instr (.ldI (fieldNNN w))
  | 0xB#4 => .instr (.jpV0 (fieldNNN w))
  | 0xC#4 => .instr (.rnd (fieldX w) (fieldNN w))
  | 0xD#4 => .instr (.drw (fieldX w) (fieldY w) (fieldN w))
  | 0xE#4 => decodeE w
  | _ => decodeF w

/-- The decoder on bytes: the first word's meaning and the bytes after it, or the name of what is
wrong (R65: one instruction length). -/
def decodeBytes : List Byte → Except DecodeError (Decoded × List Byte)
  | hi :: lo :: rest => .ok (decode (wordOfBytes hi lo), rest)
  | [_] => .error .truncated
  | [] => .error .truncated

/-! ## Encoder (R67, R71) -/

/-- Format ADDR (R67): `oooo aaaa aaaa aaaa`. -/
def packAddr (op : Nibble) (nnn : Addr12) : Word := op ++ nnn

/-- Formats REG_IMM and REG_SUB (R67): `oooo xxxx bbbb bbbb`. -/
def packRegByte (op : Nibble) (x : Reg) (nn : Byte) : Word := op ++ x ++ nn

/-- Formats REG_REG and DRAW (R67): `oooo xxxx yyyy nnnn`. -/
def packRegReg (op : Nibble) (x y : Reg) (n : Nibble) : Word := op ++ x ++ y ++ n

/-- The word of an instruction, from the opcode map's patterns. The ignored Y field of 8XY6 and 8XYE
keeps the value it was decoded with (R73). Log entry 13. -/
def encode : Instr → Word
  | .cls => 0x00E0#16
  | .ret => 0x00EE#16
  | .sys nnn => packAddr 0x0#4 nnn
  | .jp nnn => packAddr 0x1#4 nnn
  | .call nnn => packAddr 0x2#4 nnn
  | .seImm x nn => packRegByte 0x3#4 x nn
  | .sneImm x nn => packRegByte 0x4#4 x nn
  | .seReg x y => packRegReg 0x5#4 x y 0x0#4
  | .ldImm x nn => packRegByte 0x6#4 x nn
  | .addImm x nn => packRegByte 0x7#4 x nn
  | .ldReg x y => packRegReg 0x8#4 x y 0x0#4
  | .or x y => packRegReg 0x8#4 x y 0x1#4
  | .and x y => packRegReg 0x8#4 x y 0x2#4
  | .xor x y => packRegReg 0x8#4 x y 0x3#4
  | .addReg x y => packRegReg 0x8#4 x y 0x4#4
  | .sub x y => packRegReg 0x8#4 x y 0x5#4
  | .shr x y => packRegReg 0x8#4 x y 0x6#4
  | .subn x y => packRegReg 0x8#4 x y 0x7#4
  | .shl x y => packRegReg 0x8#4 x y 0xE#4
  | .sneReg x y => packRegReg 0x9#4 x y 0x0#4
  | .ldI nnn => packAddr 0xA#4 nnn
  | .jpV0 nnn => packAddr 0xB#4 nnn
  | .rnd x nn => packRegByte 0xC#4 x nn
  | .drw x y n => packRegReg 0xD#4 x y n
  | .skp x => packRegByte 0xE#4 x 0x9E#8
  | .sknp x => packRegByte 0xE#4 x 0xA1#8
  | .ldVxDt x => packRegByte 0xF#4 x 0x07#8
  | .ldVxK x => packRegByte 0xF#4 x 0x0A#8
  | .ldDtVx x => packRegByte 0xF#4 x 0x15#8
  | .ldStVx x => packRegByte 0xF#4 x 0x18#8
  | .addI x => packRegByte 0xF#4 x 0x1E#8
  | .ldF x => packRegByte 0xF#4 x 0x29#8
  | .ldB x => packRegByte 0xF#4 x 0x33#8
  | .ldMemVx x => packRegByte 0xF#4 x 0x55#8
  | .ldVxMem x => packRegByte 0xF#4 x 0x65#8

/-- The mask and the match of an instruction's row of the opcode map (R71). -/
def opcodeRow : Instr → Word × Word
  | .cls => (0xFFFF#16, 0x00E0#16)
  | .ret => (0xFFFF#16, 0x00EE#16)
  | .sys _ => (0xF000#16, 0x0000#16)
  | .jp _ => (0xF000#16, 0x1000#16)
  | .call _ => (0xF000#16, 0x2000#16)
  | .seImm _ _ => (0xF000#16, 0x3000#16)
  | .sneImm _ _ => (0xF000#16, 0x4000#16)
  | .seReg _ _ => (0xF00F#16, 0x5000#16)
  | .ldImm _ _ => (0xF000#16, 0x6000#16)
  | .addImm _ _ => (0xF000#16, 0x7000#16)
  | .ldReg _ _ => (0xF00F#16, 0x8000#16)
  | .or _ _ => (0xF00F#16, 0x8001#16)
  | .and _ _ => (0xF00F#16, 0x8002#16)
  | .xor _ _ => (0xF00F#16, 0x8003#16)
  | .addReg _ _ => (0xF00F#16, 0x8004#16)
  | .sub _ _ => (0xF00F#16, 0x8005#16)
  | .shr _ _ => (0xF00F#16, 0x8006#16)
  | .subn _ _ => (0xF00F#16, 0x8007#16)
  | .shl _ _ => (0xF00F#16, 0x800E#16)
  | .sneReg _ _ => (0xF00F#16, 0x9000#16)
  | .ldI _ => (0xF000#16, 0xA000#16)
  | .jpV0 _ => (0xF000#16, 0xB000#16)
  | .rnd _ _ => (0xF000#16, 0xC000#16)
  | .drw _ _ _ => (0xF000#16, 0xD000#16)
  | .skp _ => (0xF0FF#16, 0xE09E#16)
  | .sknp _ => (0xF0FF#16, 0xE0A1#16)
  | .ldVxDt _ => (0xF0FF#16, 0xF007#16)
  | .ldVxK _ => (0xF0FF#16, 0xF00A#16)
  | .ldDtVx _ => (0xF0FF#16, 0xF015#16)
  | .ldStVx _ => (0xF0FF#16, 0xF018#16)
  | .addI _ => (0xF0FF#16, 0xF01E#16)
  | .ldF _ => (0xF0FF#16, 0xF029#16)
  | .ldB _ => (0xF0FF#16, 0xF033#16)
  | .ldMemVx _ => (0xF0FF#16, 0xF055#16)
  | .ldVxMem _ => (0xF0FF#16, 0xF065#16)

/-- The instruction the decoder reads from a word whose bits are `w`, of which the table gives the
low `nbits` and the rest are 0: the word is laid out as two bytes, the high one first, and decoded.
`none` for an UNKNOWN word, which is no row of the table. -/
def decodeTableWord (nbits w : Nat) : Option Instr :=
  let word : Word := BitVec.ofNat 16 (w % 2 ^ nbits)
  match decodeBytes [wordHi word, wordLo word] with
  | .ok (.instr i, _) => some i
  | .ok (.unknown _, _) => none
  | .error _ => none

end Sys2Proof
end

