-- ==== Sys2Proof/Machine/Memory.lean ====
section
/-! DEFINITION. The memory image as a list in canonical form: raw reads and writes, without the
address decoder's check, which Machine/Ops.lean adds (20_memory.md R48-R51). -/

namespace Sys2Proof.Machine

/-- The size of the address space: addresses 0x000-0xFFF (R48). -/
abbrev memSize : Nat := 0x1000

/-- What an address that is not listed reads as: the reset contents of memory (R38, R144).
Log entry 15. -/
def Memory.unlisted : Byte := 0x00#8

/-- The byte at an address. -/
def Memory.read : Memory → Nat → Byte
  | [], _ => Memory.unlisted
  | (k, b) :: rest, a => if k = a then b else Memory.read rest a

/-- The memory with the byte at `a` replaced, in canonical form again. -/
def Memory.write : Memory → Nat → Byte → Memory
  | [], a, b => if b = Memory.unlisted then [] else [(a, b)]
  | (k, c) :: rest, a, b =>
    if a < k then
      if b = Memory.unlisted then (k, c) :: rest else (a, b) :: (k, c) :: rest
    else if a = k then
      if b = Memory.unlisted then rest else (a, b) :: rest
    else (k, c) :: Memory.write rest a b

/-- The canonical form: addresses strictly rising, no entry equal to what an unlisted address reads as. -/
def Memory.wf : Memory → Bool
  | [] => true
  | (k, b) :: rest => b != Memory.unlisted && rest.all (fun c => decide (k < c.1)) && Memory.wf rest

/-- Every listed address exists (R48). -/
def Memory.inRange (m : Memory) : Bool := m.all (fun c => decide (c.1 < memSize))

/-- The `n` bytes from address `a` on. -/
def Memory.readBytes (m : Memory) (a : Nat) : Nat → List Byte
  | 0 => []
  | n + 1 => Memory.read m a :: Memory.readBytes m (a + 1) n

/-- The memory with the bytes from address `a` on replaced. -/
def Memory.writeBytes (m : Memory) (a : Nat) : List Byte → Memory
  | [] => m
  | b :: rest => Memory.writeBytes (Memory.write m a b) (a + 1) rest

end Sys2Proof.Machine
end

