-- ==== Sys2Proof/Machine/Ops.lean ====
section
/-! DEFINITION. The named operations over the state: registers, program counter, call stack, checked
memory accesses, the halt (the machine's only trap entry), the fetch and the unknown-opcode event. -/

namespace Sys2Proof.Machine

/-! ## Registers (10_state.md R16-R20) -/

/-- V[x]. -/
def State.reg (s : State) (x : Reg) : Byte := s.v[x.toNat]'x.isLt

/-- V[x] ← b. No register is hard-wired (R16). -/
def State.setReg (s : State) (x : Reg) (b : Byte) : State := { s with v := s.v.set x.toNat b x.isLt }

/-- The index of the flag register VF (R17). -/
def regF : Reg := 0xF#4

/-- VF, the flag register's named accessor: an alias of general register 15 (R17). -/
def State.vf (s : State) : Byte := s.reg regF

/-- V[F] ← b. -/
def State.setVf (s : State) (b : Byte) : State := s.setReg regF b

/-- I ← w. -/
def State.setI (s : State) (w : Word) : State := { s with i := w }

/-- PC ← w. -/
def State.setPc (s : State) (w : Word) : State := { s with pc := w }

/-- FB ← fb. -/
def State.setFb (s : State) (fb : Framebuffer) : State := { s with fb := fb }

/-- M ← m. -/
def State.setMem (s : State) (m : Memory) : State := { s with mem := m }

/-- STACK ← k. -/
def State.setStack (s : State) (k : List Word) : State := { s with stack := k }

/-! ## Advancing the program counter (40_execution_loop.md R79, R80) -/

/-- PC ← PC + 2, modulo 2^16. -/
def State.advance (s : State) : State := s.setPc (s.pc + 2#16)

/-- The end of a conditional skip: PC ← PC + 4 when the condition holds, else PC ← PC + 2. -/
def State.skipIf (s : State) (c : Bool) : State := s.setPc (if c then s.pc + 4#16 else s.pc + 2#16)

/-! ## Halt, the only trap entry (60_exceptions.md R129) -/

/-- `raise Halt(reason)`: RUN_STATE ← HALTED, HALT_REASON ← reason, and FAULT_WORD with its valid
bit from the executing instruction's word, or 0 and invalid when the fetch raised it. PC and all
else stay. There is no return from it but the host's `Reset()` (R134). -/
def raiseHalt (reason : HaltReason) (word : Option Word) (s : State) : State :=
  { s with
    runState := .halted
    haltReason := reason
    faultWord := word.getD 0x0000#16
    faultWordValid := word.isSome }

/-- The end of an instruction that may halt: its next state, or the halt with the instruction's
word (R129), from the state before the instruction. Log entry 10. -/
def orHalt (ins : Instr) (s : State) : Except HaltReason State → StepResult
  | .ok t => .next t
  | .error reason => .next (raiseHalt reason (some (encode ins)) s)

/-! ## Call stack (10_state.md R25-R28) -/

/-- SP: the number of valid entries (R25). -/
def State.sp (s : State) : Nat := s.stack.length

/-- STACK[k], for k < SP (R25). -/
def State.stackEntry (s : State) (k : Nat) : Option Word := s.stack.reverse[k]?

/-- Whether the next push finds the stack full (R27). -/
def State.stackFull (s : State) : Bool :=
  match s.stackDepth with
  | .unbounded => false
  | .bounded n => s.sp == n

/-- `Push(w)` (R27). -/
def push (w : Word) (s : State) : Except HaltReason State :=
  if s.stackFull then .error .stackOverflow else .ok (s.setStack (w :: s.stack))

/-- `Pop()` (R27). -/
def pop (s : State) : Except HaltReason (Word × State) :=
  match s.stack with
  | [] => .error .stackUnderflow
  | w :: rest => .ok (w, s.setStack rest)

/-! ## Memory through the address decoder (20_memory.md R49-R52, R56) -/

/-- Whether every one of the `n` addresses from `a` on exists (R49). The addresses are exact
integers, never reduced (R52). -/
def spanInBounds (a n : Nat) : Bool := n == 0 || decide (a + n ≤ memSize)

/-- `MemRead(a + k, 1)` for k = 0 … n-1, every address checked first (R50, R56). -/
def readSpan (s : State) (a n : Nat) : Except HaltReason (List Byte) :=
  if spanInBounds a n then .ok (s.mem.readBytes a n) else .error .outOfBounds

/-- `MemWrite(a + k, 1, bs[k])` for every k, every address checked before any write (R50, R56). -/
def writeSpan (s : State) (a : Nat) (bs : List Byte) : Except HaltReason State :=
  if spanInBounds a bs.length then .ok (s.setMem (s.mem.writeBytes a bs)) else .error .outOfBounds

/-- `MemRead(a, 2)` (R51): the big-endian word at `a` and `a + 1`. -/
def readWord (s : State) (a : Nat) : Except HaltReason Word :=
  if a + 1 ≥ memSize then .error .outOfBounds
  else .ok (wordOfBytes (s.mem.read a) (s.mem.read (a + 1)))

/-- `Fetch(P)` (40_execution_loop.md R77): the normal halt past the end of memory, then the word
access, which is out of bounds at 0xFFF. -/
def fetch (s : State) : Except HaltReason Word :=
  if s.pc.toNat ≥ memSize then .error .endOfMemory else readWord s s.pc.toNat

/-! ## Placing a word to be fetched next (the host's question, no rule of the spec) -/

/-- A state whose next step fetches: RUNNING, and PC where a word exists. A state that fetches
already is unchanged; else PC is the reset entry point (R38). Log entry 18. -/
def State.readyToFetch (s : State) : State :=
  { s with
    runState := .running
    pc := if s.pc.toNat + 1 ≥ memSize then 0x200#16 else s.pc }

/-- The word stored big-endian where the next step fetches (R53). -/
def State.placeWord (s : State) (w : Word) : State :=
  s.readyToFetch.setMem (s.readyToFetch.mem.writeBytes s.readyToFetch.pc.toNat [wordHi w, wordLo w])

/-! ## The unknown opcode (40_execution_loop.md R83) -/

/-- `emit UnknownOpcode(pc, w)` (R47). -/
def State.emit (s : State) (e : Event) : State := { s with trace := s.trace ++ [e] }

/-- UNKNOWN: the event, then PC + 2; nothing else changes (R83). -/
def execUnknown (w : Word) (s : State) : StepResult := .next (s.emit ⟨s.pc, w⟩).advance

end Sys2Proof.Machine
end

