-- ==== Sys2Proof/Machine/Operands.lean ====
section
/-! DEFINITION. Operand forms: the 12-bit address, the address register's base, and the register lists of the
memory transfers (30_encoding.md R68, R69, 44_index_and_memory.md R110). -/

namespace Sys2Proof.Machine

/-- `zext_16(NNN)` (R68). -/
def zext12 (nnn : Addr12) : Word := nnn.zeroExtend 16

/-- `zext_16` of a byte (R95, R112). -/
def zext8 (b : Byte) : Word := b.zeroExtend 16

/-- `zext_8` of a key code (R126). -/
def zext4 (k : Nibble) : Byte := k.zeroExtend 8

/-- The base of every data access: I as an exact integer, to which `k` is added without reduction
(R52, R110). -/
def State.base (s : State) : Nat := s.i.toNat

/-- How many registers V0 … VX are (R115, R116). -/
def regCount (x : Reg) : Nat := x.toNat + 1

/-- The values of the `n` registers from index `k` on. -/
def State.regsFrom (s : State) (k : Nat) : Nat → List Byte
  | 0 => []
  | n + 1 => s.reg (BitVec.ofNat 4 k) :: s.regsFrom (k + 1) n

/-- The values of V0 … VX, in order (R115). -/
def State.regsUpTo (s : State) (x : Reg) : List Byte := s.regsFrom 0 (regCount x)

/-- The registers from index `k` on replaced by a list of values, in order (R116). -/
def State.setRegsFrom (s : State) (k : Nat) : List Byte → State
  | [] => s
  | b :: rest => (s.setReg (BitVec.ofNat 4 k) b).setRegsFrom (k + 1) rest

/-- The decimal digits of a byte: hundreds, tens, ones (R114). -/
def decimalDigits (b : Byte) : List Byte :=
  [BitVec.ofNat 8 (b.toNat / 100), BitVec.ofNat 8 (b.toNat / 10 % 10), BitVec.ofNat 8 (b.toNat % 10)]

end Sys2Proof.Machine
end

