-- ==== Sys2Proof/Machine/Alu.lean ====
section
/-! DEFINITION. Register-register arithmetic and logic, family 8 (43_alu.md R99-R109). -/

namespace Sys2Proof.Machine

/-- The end of an instruction that writes only VX. -/
def writeReg (x : Reg) (b : Byte) (s : State) : StepResult := .next (s.setReg x b).advance

/-- The end of a flag-writing instruction: VF first, VX second, both values computed before either
write, so that with X = F the result is VF's final value (R81, R109). -/
def writeFlagThenReg (flag : Byte) (x : Reg) (b : Byte) (s : State) : StepResult :=
  .next ((s.setVf flag).setReg x b).advance

/-- LD_REG, 8XY0 (R100). -/
def execLdReg (x y : Reg) (s : State) : StepResult := writeReg x (s.reg y) s

/-- OR, 8XY1: VF untouched (R101, D9). -/
def execOr (x y : Reg) (s : State) : StepResult := writeReg x (s.reg x ||| s.reg y) s

/-- AND, 8XY2: VF untouched (R102, D9). -/
def execAnd (x y : Reg) (s : State) : StepResult := writeReg x (s.reg x &&& s.reg y) s

/-- XOR, 8XY3: VF untouched (R103, D9). -/
def execXor (x y : Reg) (s : State) : StepResult := writeReg x (s.reg x ^^^ s.reg y) s

/-- ADD_REG, 8XY4 (R104). -/
def execAddReg (x y : Reg) (s : State) : StepResult :=
  writeFlagThenReg (carryFlag (s.reg x) (s.reg y)) x (s.reg x + s.reg y) s

/-- SUB, 8XY5 (R105). -/
def execSub (x y : Reg) (s : State) : StepResult :=
  writeFlagThenReg (noBorrowFlag (s.reg x) (s.reg y)) x (s.reg x - s.reg y) s

/-- SHR, 8XY6: VX alone, Y ignored (R106, D6). -/
def execShr (x _y : Reg) (s : State) : StepResult :=
  writeFlagThenReg (shiftRightFlag (s.reg x)) x (s.reg x >>> 1) s

/-- SUBN, 8XY7 (R107). -/
def execSubn (x y : Reg) (s : State) : StepResult :=
  writeFlagThenReg (noBorrowFlag (s.reg y) (s.reg x)) x (s.reg y - s.reg x) s

/-- SHL, 8XYE: VX alone, Y ignored (R108, D6). -/
def execShl (x _y : Reg) (s : State) : StepResult :=
  writeFlagThenReg (shiftLeftFlag (s.reg x)) x (s.reg x <<< 1) s

end Sys2Proof.Machine
end

