-- ==== Sys2Proof/Machine/ControlFlow.lean ====
section
/-! DEFINITION. Control flow: return, calls, jumps and skips (41_control_flow.md R86-R95). A target is not checked at the
jump, only at the next fetch (R86). -/

namespace Sys2Proof.Machine

/-- The shared effect of the two call rows: push P + 2, then PC ← target (R88, R90). -/
def pushAndJump (target : Word) (s : State) : Except HaltReason State :=
  match push (s.pc + 2#16) s with
  | .error reason => .error reason
  | .ok t => .ok (t.setPc target)

/-- RET, 00EE (R87). -/
def execRet (s : State) : StepResult :=
  orHalt .ret s
    (match pop s with
     | .error reason => .error reason
     | .ok (target, t) => .ok (t.setPc target))

/-- SYS, 0NNN: a call like 2NNN (R88). -/
def execSys (nnn : Addr12) (s : State) : StepResult := orHalt (.sys nnn) s (pushAndJump (zext12 nnn) s)

/-- JP, 1NNN (R89). -/
def execJp (nnn : Addr12) (s : State) : StepResult := .next (s.setPc (zext12 nnn))

/-- CALL, 2NNN (R90). -/
def execCall (nnn : Addr12) (s : State) : StepResult := orHalt (.call nnn) s (pushAndJump (zext12 nnn) s)

/-- SE_IMM, 3XNN (R91). -/
def execSeImm (x : Reg) (nn : Byte) (s : State) : StepResult := .next (s.skipIf (s.reg x == nn))

/-- SNE_IMM, 4XNN (R92). -/
def execSneImm (x : Reg) (nn : Byte) (s : State) : StepResult := .next (s.skipIf (s.reg x != nn))

/-- SE_REG, 5XY0 (R93). -/
def execSeReg (x y : Reg) (s : State) : StepResult := .next (s.skipIf (s.reg x == s.reg y))

/-- SNE_REG, 9XY0 (R94). -/
def execSneReg (x y : Reg) (s : State) : StepResult := .next (s.skipIf (s.reg x != s.reg y))

/-- JP_V0, BNNN: always V0, and the sum is not reduced to 12 bits (R95). -/
def execJpV0 (nnn : Addr12) (s : State) : StepResult :=
  .next (s.setPc (zext8 (s.reg 0x0#4) + zext12 nnn))

end Sys2Proof.Machine
end

