-- ==== Sys2Proof/Machine/Framebuffer.lean ====
section
/-! DEFINITION. The framebuffer's operations: pixels, `Clear` and `DrawSprite` (45_display.md R117-R119). -/

namespace Sys2Proof.Machine

/-- The grid's width (R7). -/
def fbWidth : Nat := 64

/-- The grid's height (R7). -/
def fbHeight : Nat := 32

/-- FB[x, y] (R29): the pixel at column `x` and row `y`; off the grid there is none, and this is false. -/
def Framebuffer.pixel (fb : Framebuffer) (x y : Nat) : Bool :=
  if h : y < 32 then fb[y].getLsbD x else false

/-- FB[x, y] ← FB[x, y] ^ 1, for a pixel on the grid (R118). -/
def Framebuffer.toggle (fb : Framebuffer) (x y : Nat) : Framebuffer :=
  if h : y < 32 then fb.set y (fb[y] ^^^ BitVec.twoPow 64 x) else fb

/-- `Clear()` (R117): every pixel is 0. -/
def Framebuffer.clear : Framebuffer := Vector.replicate 32 0#64

/-- A framebuffer being drawn on, and whether a set pixel has been turned off so far (R118). -/
structure Canvas where
  fb : Framebuffer
  collided : Bool
  deriving DecidableEq, Repr

/-- One 1 bit of a sprite at column `px` and row `py`: the collision test, then the toggle (R118). -/
def Canvas.plot (c : Canvas) (px py : Nat) : Canvas where
  fb := c.fb.toggle px py
  collided := c.collided || c.fb.pixel px py

/-- The bit positions `ws` of the sprite row `b`, position 0 its most significant bit, drawn from
column `x0` at row `py`; columns wrap modulo the width (R118, D5). -/
def Canvas.drawBits (b : Byte) (x0 py : Nat) : List Nat → Canvas → Canvas
  | [], c => c
  | w :: ws, c =>
    Canvas.drawBits b x0 py ws
      (if b.getLsbD (7 - w) then c.plot ((x0 + w) % fbWidth) py else c)

/-- One sprite row. -/
def Canvas.drawRow (b : Byte) (x0 py : Nat) (c : Canvas) : Canvas :=
  Canvas.drawBits b x0 py [0, 1, 2, 3, 4, 5, 6, 7] c

/-- The sprite rows, the first at row `y` of the unwrapped grid; rows wrap modulo the height (R118, D5). -/
def Canvas.drawRows (x0 y : Nat) : List Byte → Canvas → Canvas
  | [], c => c
  | b :: rows, c => Canvas.drawRows x0 (y + 1) rows (Canvas.drawRow b x0 (y % fbHeight) c)

/-- `DrawSprite(x0, y0, rows)` (R118): the new framebuffer, and whether a set pixel was erased. -/
def drawSprite (fb : Framebuffer) (x0 y0 : Byte) (rows : List Byte) : Canvas :=
  Canvas.drawRows x0.toNat y0.toNat rows ⟨fb, false⟩

end Sys2Proof.Machine
end

