-- ==== Sys2Proof/Machine/Display.lean ====
section
/-! DEFINITION. The display instructions (45_display.md R120, R121). -/

namespace Sys2Proof.Machine

/-- CLS, 00E0 (R120). -/
def execCls (s : State) : StepResult := .next (s.setFb Framebuffer.clear).advance

/-- DRW, DXYN: the sprite bytes are read first, out of bounds before any pixel changes; then the
draw, then VF, which is always written (R121). With N = 0 nothing is read and VF becomes 0. -/
def execDrw (x y : Reg) (n : Nibble) (s : State) : StepResult :=
  orHalt (.drw x y n) s
    (match readSpan s s.base n.toNat with
     | .error reason => .error reason
     | .ok rows =>
       let c := drawSprite s.fb (s.reg x) (s.reg y) rows
       .ok ((s.setFb c.fb).setVf (collisionFlag c.collided)).advance)

end Sys2Proof.Machine
end

