-- ==== Sys2Proof/Machine/Ports.lean ====
section
/-! DEFINITION. The engine's calls of its external collaborators: RNG, key and timer ports (10_state.md R42-R45),
and the reference timer device (60_exceptions.md R138, R139). Each answer is a free value, numbered by
a counter of calls. -/

namespace Sys2Proof.Machine

/-! ## RNG port (R42) -/

/-- `Rng()`: the answer and the state after the call. -/
def rng (s : State) : Byte × State :=
  (Config.rngByte s.rngCalls, { s with rngCalls := s.rngCalls + 1 })

/-! ## Key port (R43) -/

/-- `KeyDown(k)`: the answer and the state after the call; no answer, and no call, when no input
source is attached (D16). -/
def keyDown (k : Byte) (s : State) : Option Bool × State :=
  if s.inputAttached then
    (some (Config.keyDown s.keyDownCalls k), { s with keyDownCalls := s.keyDownCalls + 1 })
  else (none, s)

/-- `NextKey()`: a key code or none, and the state after the call; none, and no call, when no input
source is attached (D16). -/
def nextKey (s : State) : Option Nibble × State :=
  if s.inputAttached then
    (Config.nextKey s.nextKeyCalls, { s with nextKeyCalls := s.nextKeyCalls + 1 })
  else (none, s)

/-! ## Timer port and reference device (R45, R139) -/

/-- One decrement toward 0 (R139). -/
def countDown (c : Byte) : Byte := if c = 0#8 then 0#8 else c - 1#8

/-- `Tick()` (R139): the external event, which may fall between any two steps. -/
def tick (s : State) : State := { s with dt := countDown s.dt, st := countDown s.st }

/-- A counter after `n` decrements toward 0. -/
def countDownBy (n : Nat) (c : Byte) : Byte := if c = 0#8 then 0#8 else BitVec.ofNat 8 (c.toNat - n)

/-- The timer device after `n` ticks: `tick` taken `n` times (Laws/Ports.lean). -/
def elapse (n : Nat) (s : State) : State := { s with dt := countDownBy n s.dt, st := countDownBy n s.st }

/-- The ticks that fall between the last step of the engine and the next (R64, R85), whatever the engine's run
state is. Their number is free, drawn anew each time. Log entry 6. -/
def betweenSteps (s : State) : State :=
  { elapse (Config.ticks s.tickDraws) s with tickDraws := s.tickDraws + 1 }

/-- `DtRead()`: DT as it stands, after every tick before this step (R64). -/
def dtRead (s : State) : Byte := s.dt

/-- `DtWrite(b)`: DT ← b. -/
def dtWrite (b : Byte) (s : State) : State := { s with dt := b }

/-- `StWrite(b)`: ST ← b. -/
def stWrite (b : Byte) (s : State) : State := { s with st := b }

end Sys2Proof.Machine
end

