-- ==== Sys2Proof/Machine/Immediate.lean ====
section
/-! DEFINITION. Register-immediate instructions and the random byte (42_register_immediate.md R96-R98). -/

namespace Sys2Proof.Machine

/-- LD_IMM, 6XNN (R96). -/
def execLdImm (x : Reg) (nn : Byte) (s : State) : StepResult := .next (s.setReg x nn).advance

/-- ADD_IMM, 7XNN: modulo 256, no flag (R97). -/
def execAddImm (x : Reg) (nn : Byte) (s : State) : StepResult :=
  .next (s.setReg x (s.reg x + nn)).advance

/-- RND, CXNN: one call of the RNG port, whatever NN is (R98, D29). -/
def execRnd (x : Reg) (nn : Byte) (s : State) : StepResult :=
  .next ((rng s).2.setReg x ((rng s).1 &&& nn)).advance

end Sys2Proof.Machine
end

