-- ==== Sys2Proof/Machine/Index.lean ====
section
/-! DEFINITION. The address register and the memory transfers (44_index_and_memory.md R110-R116). No transfer changes I
(R110, D10). -/

namespace Sys2Proof.Machine

/-- LD_I, ANNN (R111). -/
def execLdI (nnn : Addr12) (s : State) : StepResult := .next (s.setI (zext12 nnn)).advance

/-- ADD_I, FX1E: modulo 65536, VF untouched (R112, D7). -/
def execAddI (x : Reg) (s : State) : StepResult := .next (s.setI (s.i + zext8 (s.reg x))).advance

/-- LD_F, FX29: the configuration's glyph address, no memory access (R113, D18). -/
def execLdF (x : Reg) (s : State) : StepResult := .next (s.setI (Config.glyphAddr (s.reg x))).advance

/-- The end of a storing instruction: the bytes at I, then PC + 2 (R114, R115). -/
def storeAtI (bs : List Byte) (s : State) : Except HaltReason State :=
  match writeSpan s s.base bs with
  | .error reason => .error reason
  | .ok t => .ok t.advance

/-- LD_B, FX33 (R114). -/
def execLdB (x : Reg) (s : State) : StepResult :=
  orHalt (.ldB x) s (storeAtI (decimalDigits (s.reg x)) s)

/-- LD_MEM_VX, FX55 (R115). -/
def execLdMemVx (x : Reg) (s : State) : StepResult :=
  orHalt (.ldMemVx x) s (storeAtI (s.regsUpTo x) s)

/-- LD_VX_MEM, FX65: every byte is read before any register is written (R116). -/
def execLdVxMem (x : Reg) (s : State) : StepResult :=
  orHalt (.ldVxMem x) s
    (match readSpan s s.base (regCount x) with
     | .error reason => .error reason
     | .ok bs => .ok (s.setRegsFrom 0 bs).advance)

end Sys2Proof.Machine
end

