-- ==== Sys2Proof/Machine/KeysTimers.lean ====
section
/-! DEFINITION. Key and timer instructions and the key-wait step (46_keys_and_timers.md R122-R128). -/

namespace Sys2Proof.Machine

/-- SKP, EX9E: skip if key VX is down; never with no input source (R122). -/
def execSkp (x : Reg) (s : State) : StepResult :=
  .next ((keyDown (s.reg x) s).2.skipIf ((keyDown (s.reg x) s).1 == some true))

/-- SKNP, EXA1: skip if key VX is up; never with no input source (R123, D16). -/
def execSknp (x : Reg) (s : State) : StepResult :=
  .next ((keyDown (s.reg x) s).2.skipIf ((keyDown (s.reg x) s).1 == some false))

/-- LD_VX_DT, FX07 (R124). -/
def execLdVxDt (x : Reg) (s : State) : StepResult :=
  .next (s.setReg x (dtRead s)).advance

/-- AWAIT_KEY entered for register `x` (R125). -/
def State.beginWait (s : State) (x : Reg) : State := { s with waitX := x, runState := .awaitKey }

/-- LD_VX_K, FX0A: PC stays, and this step does not poll (R125, D15). -/
def execLdVxK (x : Reg) (s : State) : StepResult := .next (s.beginWait x)

/-- RUN_STATE ← RUNNING (R126). -/
def State.resume (s : State) : State := { s with runState := .running }

/-- `KeyWaitStep` (R126): one poll; on a key, the register WAIT_X names, PC + 2 and RUNNING. -/
def keyWaitStep (s : State) : StepResult :=
  match (nextKey s).1 with
  | none => .next (nextKey s).2
  | some key => .next ((nextKey s).2.setReg s.waitX (zext4 key)).advance.resume

/-- LD_DT_VX, FX15 (R127). -/
def execLdDtVx (x : Reg) (s : State) : StepResult := .next (dtWrite (s.reg x) s).advance

/-- LD_ST_VX, FX18 (R128). -/
def execLdStVx (x : Reg) (s : State) : StepResult := .next (stWrite (s.reg x) s).advance

end Sys2Proof.Machine
end

