-- ==== Sys2Proof/Machine/Engine.lean ====
section
/-! DEFINITION. The two kinds of transition of the system (40_execution_loop.md R85): the engine's step (R76) and the timer
device's tick (60_exceptions.md R139). -/

namespace Sys2Proof.Machine

/-- The engine's `Step()` (R76): nothing when HALTED (R82), the key-wait step when waiting (R126), else fetch,
decode and execute. A halt at the fetch records no word (R129). -/
def engineStep (s : State) : StepResult :=
  match s.runState with
  | .halted => .next s
  | .awaitKey => keyWaitStep s
  | .running =>
    match fetch s with
    | .error reason => .next (raiseHalt reason none s)
    | .ok w =>
      match decode w with
      | .instr i => exec i s
      | .unknown w => execUnknown w s

/-- The kinds of transition (R85). -/
inductive Transition where
  /-- The engine's step. -/
  | step
  /-- The external tick of the timer device. -/
  | tick
  deriving DecidableEq, Repr

/-- One transition (R85). -/
def transition : Transition → State → StepResult
  | .step, s => engineStep s
  | .tick, s => .next (tick s)

/-- Transitions one after the other, in any order R85 allows; they end at the first that has no next state. -/
def transitions : List Transition → State → StepResult
  | [], s => .next s
  | a :: rest, s =>
    match transition a s with
    | .next t => transitions rest t
    | .fault r => .fault r
    | .refused r => .refused r

end Sys2Proof.Machine
end

