-- ==== Sys2Proof/Machine/Step.lean ====
section
/-! DEFINITION. One step of the machine, and the placing of a word for the next step to fetch. -/

namespace Sys2Proof.Machine

/-- The ticks of the timer device that fall after the last step, then the engine's step (40_execution_loop.md R76, R85). -/
def step (s : State) : Host.Outcome State Fault Refusal := engineStep (betweenSteps s)

/-- `s` with the word whose low `nbits` bits are `w`'s, the rest 0, stored where the next step
fetches. Log entry 18. -/
def State.withFetchWord (s : State) (nbits w : Nat) : State :=
  s.placeWord (BitVec.ofNat 16 (w % 2 ^ nbits))

end Sys2Proof.Machine
end

