-- ==== Sys2Proof/Machine/HostPorts.lean ====
section
/-! DEFINITION. What the host can do to the machine: reset, load, step with its status, and snapshot
(10_state.md R40, R41, R44, 70_reset_and_hazards.md R144-R147), and the status registers' encodings. -/

namespace Sys2Proof.Machine

/-! ## Encodings of the status registers (R30, R31) -/

/-- RUN_STATE's 2-bit value (R30). -/
def RunState.code : RunState → BitVec 2
  | .running => 0
  | .awaitKey => 1
  | .halted => 2

/-- HALT_REASON's 3-bit value (R31). -/
def HaltReason.code : HaltReason → BitVec 3
  | .none => 0
  | .endOfMemory => 1
  | .stackUnderflow => 2
  | .outOfBounds => 3
  | .stackOverflow => 4

/-! ## Control port (R34, R40) -/

/-- What `Step()` and the status read return: the five values R40 lists, and WAIT_X, which R34 says the host
reads through this port too. Log entry 24. -/
structure Status where
  runState : BitVec 2
  haltReason : BitVec 3
  pc : Word
  faultWord : Word
  faultWordValid : Bool
  waitX : Reg
  deriving DecidableEq, Repr

/-- The status read: it changes nothing (R34, R40). -/
def State.status (s : State) : Status where
  runState := s.runState.code
  haltReason := s.haltReason.code
  pc := s.pc
  faultWord := s.faultWord
  faultWordValid := s.faultWordValid
  waitX := s.waitX

/-- `Step()`, the engine's step alone, with the status after it (R40); none if it ever had no next state. -/
def hostStep (s : State) : Option (State × Status) :=
  match engineStep s with
  | .next t => some (t, t.status)
  | .fault _ => none
  | .refused _ => none

/-- `Reset()` (R144, R145): the block in its reset state, in any run state. It does not reach the
collaborators, so the timer device and the numbering of free values stay (log entry 7), and so do the
configuration and the events already put out. -/
def hostReset (s : State) : State :=
  { State.reset with
    dt := s.dt
    st := s.st
    stackDepth := s.stackDepth
    inputAttached := s.inputAttached
    rngCalls := s.rngCalls
    keyDownCalls := s.keyDownCalls
    nextKeyCalls := s.nextKeyCalls
    tickDraws := s.tickDraws
    trace := s.trace }

/-! ## Load port (R41) -/

/-- The load port's error (R130, R131). -/
inductive LoadError where
  /-- The bytes do not fit. -/
  | loadTooLarge
  deriving DecidableEq, Repr

/-- `Load(offset, bytes)` (R41): the bytes copied from `offset` on, or LOAD_TOO_LARGE with no byte
written when they do not fit (R131). -/
def load (offset : Nat) (bytes : List Byte) (s : State) : Except LoadError State :=
  if offset + bytes.length > memSize then .error .loadTooLarge
  else .ok (s.setMem (s.mem.writeBytes offset bytes))

/-- The host's `Load` calls in order (R146, D30). DESIGN CHOICE: they end at the first that fails, with no state,
though R131 leaves it to the host whether to go on; a host that goes on has the state it had before that `Load`, as
`load` says. Log entry 25. -/
def loadAll : List (Nat × List Byte) → State → Except LoadError State
  | [], s => .ok s
  | (offset, bytes) :: rest, s =>
    match load offset bytes s with
    | .error e => .error e
    | .ok t => loadAll rest t

/-- Boot (R146): reset, the configuration fixed, every `Load` call, and no step yet. Loads stand
here alone, as the host may load only before the first step (D21), and a failed one ends the boot. Log entries 19
and 25. -/
def boot (depth : StackDepth) (input : Bool) (loads : List (Nat × List Byte)) : Except LoadError State :=
  loadAll loads { State.reset with stackDepth := depth, inputAttached := input }

/-! ## Snapshot port (R44) -/

/-- `Snapshot()` (R44): the 32 rows of 64 pixels, as they stand between two steps. -/
def snapshot (s : State) : List (List Bool) :=
  (List.range 32).map fun y => (List.range 64).map fun x => s.fb.pixel x y

end Sys2Proof.Machine
end

