-- ==== Sys2Proof/Safety.lean ====
section
/-! DEFINITION. The terms in which claims are stated: how a run ends, what a transition keeps, and the invariant of
the machine. -/

namespace Sys2Proof

open Machine

/-! ## The end of a run (70_reset_and_hazards.md R148) -/

/-- A normal end: HALTED past the end of memory. -/
def normalEnd (s : State) : Bool := s.runState == .halted && s.haltReason == .endOfMemory

/-- A fatal end: HALTED by an error. Never a successful final state (R148); log entry 9. -/
def fatalEnd (s : State) : Bool :=
  s.runState == .halted &&
    (s.haltReason == .stackUnderflow || s.haltReason == .outOfBounds || s.haltReason == .stackOverflow)

/-- A state a safe run may be in: no error has halted the engine. -/
def Safe (s : State) : Prop := fatalEnd s = false

/-! ## Frames -/

/-- The parts of the state besides the general registers. -/
inductive Part where
  | i
  | pc
  | stack
  | fb
  | mem
  | runState
  | haltReason
  /-- FAULT_WORD and FAULT_WORD_VALID. -/
  | faultWord
  | waitX
  | dt
  | st
  /-- How many times ticks have been taken before a step. -/
  | tickDraws
  /-- STACK_DEPTH and INPUT_ATTACHED. -/
  | parameters
  | rngCalls
  | keyDownCalls
  | nextKeyCalls
  | trace
  deriving DecidableEq, Repr

/-- The part reads the same in both states; memory byte by byte, the framebuffer pixel by pixel. -/
def Part.Kept (s t : State) : Part → Prop
  | .i => t.i = s.i
  | .pc => t.pc = s.pc
  | .stack => t.stack = s.stack
  | .fb => ∀ x y, t.fb.pixel x y = s.fb.pixel x y
  | .mem => ∀ a, t.mem.read a = s.mem.read a
  | .runState => t.runState = s.runState
  | .haltReason => t.haltReason = s.haltReason
  | .faultWord => t.faultWord = s.faultWord ∧ t.faultWordValid = s.faultWordValid
  | .waitX => t.waitX = s.waitX
  | .dt => t.dt = s.dt
  | .st => t.st = s.st
  | .tickDraws => t.tickDraws = s.tickDraws
  | .parameters => t.stackDepth = s.stackDepth ∧ t.inputAttached = s.inputAttached
  | .rngCalls => t.rngCalls = s.rngCalls
  | .keyDownCalls => t.keyDownCalls = s.keyDownCalls
  | .nextKeyCalls => t.nextKeyCalls = s.nextKeyCalls
  | .trace => t.trace = s.trace

/-- The parts that the ticks between two steps change (40_execution_loop.md R85). -/
def tickParts : List Part := [.dt, .st, .tickDraws]

/-- From `s` to `t` no general register outside `regs` and no part outside `parts` changes. -/
def OnlyChanges (regs : List Reg) (parts : List Part) (s t : State) : Prop :=
  (∀ j : Reg, j ∉ regs → t.reg j = s.reg j) ∧ ∀ p : Part, p ∉ parts → p.Kept s t

/-- `t` is `s` halted by an instruction whose word is `w` (60_exceptions.md R129): the status registers
say so and nothing else, PC included, differs. -/
def HaltedAt (reason : HaltReason) (w : Word) (s t : State) : Prop :=
  t.runState = .halted ∧ t.haltReason = reason ∧ t.faultWord = w ∧ t.faultWordValid = true ∧
    OnlyChanges [] [.runState, .haltReason, .faultWord] s t

/-! ## Sprites -/

/-- The sprite with bytes `rows`, drawn from column `x0` and row `y0`, has a 1 bit on the pixel at
column `px` and row `py` (45_display.md R118): bit `w` of row `r`, bit 0 the most significant, falls
on column (x0 + w) mod 64 and row (y0 + r) mod 32. -/
def SpriteCovers (x0 y0 : Nat) (rows : List Byte) (px py : Nat) : Prop :=
  ∃ r w, r < rows.length ∧ w < 8 ∧ (rows.getD r 0#8).getLsbD (7 - w) = true ∧
    px = (x0 + w) % 64 ∧ py = (y0 + r) % 32

/-! ## The invariant -/

/-- What holds at reset and is kept by every step: memory in canonical form and inside the address
space (R48), the call stack within its bound and holding return addresses (R23, R25), PC never at or
past 0x10FF (R23), and the status registers consistent with one another (R31, R32, R77, R130). -/
structure Inv (s : State) : Prop where
  memWf : s.mem.wf = true
  memInRange : s.mem.inRange = true
  stackBound : ∀ n, s.stackDepth = .bounded n → s.sp ≤ n
  stackEntries : ∀ a ∈ s.stack, a.toNat ≤ 0x1000
  pcBound : s.pc.toNat ≤ 0x10FE
  waitPc : s.runState = .awaitKey → s.pc.toNat ≤ 0xFFE
  reasonIffHalted : s.haltReason ≠ .none ↔ s.runState = .halted
  wordOnlyWhenHalted : s.faultWordValid = true → s.runState = .halted
  noWordReadsZero : s.faultWordValid = false → s.faultWord = 0x0000#16
  endOfMemoryPc : s.haltReason = .endOfMemory → 0x1000 ≤ s.pc.toNat ∧ s.faultWordValid = false
  fatalPc : fatalEnd s = true → s.pc.toNat ≤ 0xFFF
  stackFaultHasWord : s.haltReason = .stackUnderflow ∨ s.haltReason = .stackOverflow →
    s.faultWordValid = true

end Sys2Proof
end

