-- ==== Sys2Proof/Certificates/Slice0/Obligations.lean ====
section
/-! DEFINITION. The statements for the provers. Each docstring names the rule of spec/ it formalises; "log entry n" is a
choice of the model, notes/assumptions/n.md. -/

open Sys2Proof Sys2Proof.Machine

/-! ## Decoding and encoding (30_encoding.md) -/

/-- Words written out from R71's patterns, one or more per format, decode to the instructions they
stand for, and four words of R72 to UNKNOWN. -/
def Obligations.WrittenWordsDecodeAsTheOpcodeMapSays : Prop :=
  decode 0x00E0#16 = .instr .cls ∧ decode 0x00EE#16 = .instr .ret ∧
  decode 0x00E1#16 = .instr (.sys 0x0E1#12) ∧ decode 0x2ABC#16 = .instr (.call 0xABC#12) ∧
  decode 0x34C7#16 = .instr (.seImm 0x4#4 0xC7#8) ∧ decode 0x5120#16 = .instr (.seReg 0x1#4 0x2#4) ∧
  decode 0x81F7#16 = .instr (.subn 0x1#4 0xF#4) ∧ decode 0x8A36#16 = .instr (.shr 0xA#4 0x3#4) ∧
  decode 0xB201#16 = .instr (.jpV0 0x201#12) ∧ decode 0xCDEF#16 = .instr (.rnd 0xD#4 0xEF#8) ∧
  decode 0xD12E#16 = .instr (.drw 0x1#4 0x2#4 0xE#4) ∧ decode 0xE49E#16 = .instr (.skp 0x4#4) ∧
  decode 0xF765#16 = .instr (.ldVxMem 0x7#4) ∧
  decode 0x5121#16 = .unknown 0x5121#16 ∧ decode 0x8008#16 = .unknown 0x8008#16 ∧
  decode 0xE000#16 = .unknown 0xE000#16 ∧ decode 0xFFFF#16 = .unknown 0xFFFF#16

/-- R70, R71: decoding the word of any well-formed instruction gives the instruction back, for every
value of every operand. -/
def Obligations.DecodeInvertsEncode : Prop :=
  ∀ i : Instr, i.wellFormed = true → decode (encode i) = .instr i

/-- R70, R73: a word that decodes to an instruction is that instruction's word, bit for bit (the ignored Y
field of 8XY6 and 8XYE included, log entry 13), and the instruction is well-formed. -/
def Obligations.EncodeRecoversTheDecodedWord : Prop :=
  ∀ (w : Word) (i : Instr), decode w = .instr i →
    i.wellFormed = true ∧ encode i = w

/-- R71: a word decodes to an instruction of a row exactly when it matches the row's mask and match,
where the SYS row excludes 0x00E0 and 0x00EE. -/
def Obligations.WordsDecodeToTheRowTheyMatch : Prop :=
  ∀ (w : Word) (i : Instr),
    (w &&& (opcodeRow i).1 = (opcodeRow i).2 ∧
      (opcodeRow i = (0xF000#16, 0x0000#16) → w ≠ 0x00E0#16 ∧ w ≠ 0x00EE#16)) ↔
    ∃ j, decode w = .instr j ∧ opcodeRow j = opcodeRow i

/-- R72: the UNKNOWN words are exactly those of the rule's table, and UNKNOWN carries the word. -/
def Obligations.UnknownWordsAreThoseOfTheTable : Prop :=
  ∀ w u : Word, decode w = .unknown u ↔
    u = w ∧
    ((fieldOp w = 0x5#4 ∧ fieldN w ≠ 0x0#4) ∨
     (fieldOp w = 0x8#4 ∧ fieldN w ∈ [0x8#4, 0x9#4, 0xA#4, 0xB#4, 0xC#4, 0xD#4, 0xF#4]) ∨
     (fieldOp w = 0x9#4 ∧ fieldN w ≠ 0x0#4) ∨
     (fieldOp w = 0xE#4 ∧ fieldNN w ∉ [0x9E#8, 0xA1#8]) ∨
     (fieldOp w = 0xF#4 ∧ fieldNN w ∉
       [0x07#8, 0x0A#8, 0x15#8, 0x18#8, 0x1E#8, 0x29#8, 0x33#8, 0x55#8, 0x65#8]))

/-! ## The step (40_execution_loop.md) -/

/-- R76, R77, R65: when the engine is RUNNING and the big-endian word at PC decodes to an instruction, the engine's
step is the execution of that instruction at that state, and the machine's step is its execution after the ticks that
fall before it, which `TicksFallBetweenSteps` states (log entry 6). -/
def Obligations.StepRunsTheInstructionAtPc : Prop :=
  ∀ (s : State) (w : Word) (i : Instr), s.runState = .running → s.pc.toNat ≤ 0xFFE →
    w.toNat = 256 * (s.mem.read s.pc.toNat).toNat + (s.mem.read (s.pc.toNat + 1)).toNat →
    decode w = .instr i →
    engineStep s = exec i s ∧ step s = exec i (betweenSteps s)

/-- R83, R47: an unknown word is reported with its address, PC advances by 2, and nothing else
changes. -/
def Obligations.UnknownOpcodeReportsAndAdvances : Prop :=
  ∀ (s : State) (w : Word), s.runState = .running → s.pc.toNat ≤ 0xFFE →
    w.toNat = 256 * (s.mem.read s.pc.toNat).toNat + (s.mem.read (s.pc.toNat + 1)).toNat →
    decode w = .unknown w →
    ∃ t, engineStep s = .next t ∧ t.trace = s.trace ++ [⟨s.pc, w⟩] ∧ t.pc = s.pc + 2#16 ∧
      OnlyChanges [] [.pc, .trace] s t

/-- R77, D2: a fetch at or past 0x1000 is the normal halt END_OF_MEMORY, a fetch at 0xFFF the fatal
OUT_OF_BOUNDS; no word is recorded and nothing but the status registers changes. -/
def Obligations.FetchAtTheEndOfMemoryHalts : Prop :=
  ∀ s : State, s.runState = .running → 0xFFF ≤ s.pc.toNat →
    ∃ t, engineStep s = .next t ∧ t.runState = .halted ∧
      t.haltReason = (if s.pc.toNat = 0xFFF then HaltReason.outOfBounds else HaltReason.endOfMemory) ∧
      t.faultWord = 0x0000#16 ∧ t.faultWordValid = false ∧
      OnlyChanges [] [.runState, .haltReason, .faultWord] s t

/-- R82, D14: HALTED is absorbing: the engine's step changes nothing, PC included, and any number of steps of the
machine changes nothing but the timer device, which ticks on (log entry 6). -/
def Obligations.HaltedIsAbsorbing : Prop :=
  ∀ (s : State) (k : Nat), s.runState = .halted →
    engineStep s = .next s ∧ ∃ t, core.run k s = .next t ∧ OnlyChanges [] tickParts s t

/-- R126, D15, D16: the step taken in AWAIT_KEY. With no input source nothing changes; else the port is
polled once, and with no key only that call is counted (log entry 8), with a key the register WAIT_X
names receives it, PC advances by 2 and the engine is RUNNING, with nothing else executed. -/
def Obligations.KeyWaitStepPollsOnce : Prop :=
  ∀ s : State, s.runState = .awaitKey →
    ∃ t, engineStep s = .next t ∧
      (s.inputAttached = false → t = s) ∧
      (s.inputAttached = true →
        t.nextKeyCalls = s.nextKeyCalls + 1 ∧
        match Config.nextKey s.nextKeyCalls with
        | none => OnlyChanges [] [.nextKeyCalls] s t
        | some key =>
          (t.reg s.waitX).toNat = key.toNat ∧ t.pc = s.pc + 2#16 ∧ t.runState = .running ∧
            OnlyChanges [s.waitX] [.pc, .runState, .nextKeyCalls] s t)

/-- R76, R83, R129: every step from every state has a next state; no step ends in a fault or a refusal. That a
halt, which R148 and U9, U10 call a fault, is a next state is the model's choice (DEDUCED, log entry 9). -/
def Obligations.EveryStepHasANextState : Prop :=
  ∀ s : State, ∃ t, step s = .next t

/-! ## Halts (60_exceptions.md) -/

/-- R129, R133, D13: an instruction that halts the engine records its own word, leaves PC, and has no
effect but on the status registers. The word is the model's `encode i` (DEDUCED, log entry 10). -/
def Obligations.HaltingInstructionHasNoOtherEffect : Prop :=
  ∀ (i : Instr) (s t : State), s.runState = .running → exec i s = .next t → t.runState = .halted →
    t.haltReason ≠ .none ∧ HaltedAt t.haltReason (encode i) s t

/-- R132, R130 (D4, D19): each instruction halts exactly on its one fault condition, with that
condition's reason. -/
def Obligations.InstructionsHaltExactlyOnTheirCondition : Prop :=
  ∀ (i : Instr) (s : State), s.runState = .running →
    ∃ t, exec i s = .next t ∧
      (match i with
       | .ret => (t.runState = .halted ↔ s.sp = 0) ∧ (t.runState = .halted → t.haltReason = .stackUnderflow)
       | .sys _ => (t.runState = .halted ↔ s.stackDepth = .bounded s.sp) ∧
           (t.runState = .halted → t.haltReason = .stackOverflow)
       | .call _ => (t.runState = .halted ↔ s.stackDepth = .bounded s.sp) ∧
           (t.runState = .halted → t.haltReason = .stackOverflow)
       | .drw _ _ n => (t.runState = .halted ↔ 0 < n.toNat ∧ 0x1000 ≤ s.base + n.toNat - 1) ∧
           (t.runState = .halted → t.haltReason = .outOfBounds)
       | .ldB _ => (t.runState = .halted ↔ 0x1000 ≤ s.base + 2) ∧
           (t.runState = .halted → t.haltReason = .outOfBounds)
       | .ldMemVx x => (t.runState = .halted ↔ 0x1000 ≤ s.base + x.toNat) ∧
           (t.runState = .halted → t.haltReason = .outOfBounds)
       | .ldVxMem x => (t.runState = .halted ↔ 0x1000 ≤ s.base + x.toNat) ∧
           (t.runState = .halted → t.haltReason = .outOfBounds)
       | _ => t.runState ≠ .halted)

/-! ## Control flow (41_control_flow.md) -/

/-- R89: the word 1NNN is a jump; it sets PC to NNN and changes nothing else. -/
def Obligations.JumpSetsPc : Prop :=
  ∀ (nnn : Addr12) (s : State),
    decode (0x1#4 ++ nnn) = .instr (.jp nnn) ∧
    ∃ t, exec (.jp nnn) s = .next t ∧ t.pc.toNat = nnn.toNat ∧ OnlyChanges [] [.pc] s t

/-- R95: the word BNNN sets PC to V0 + NNN, not reduced, and changes nothing else. -/
def Obligations.IndexedJumpAddsV0 : Prop :=
  ∀ (nnn : Addr12) (s : State),
    decode (0xB#4 ++ nnn) = .instr (.jpV0 nnn) ∧
    ∃ t, exec (.jpV0 nnn) s = .next t ∧ t.pc.toNat = (s.reg 0x0#4).toNat + nnn.toNat ∧
      OnlyChanges [] [.pc] s t

/-- R90, R88: with room on the stack, 2NNN and 0NNN push P + 2 and set PC to NNN; nothing else
changes. -/
def Obligations.CallPushesTheReturnAddress : Prop :=
  ∀ (nnn : Addr12) (s : State) (i : Instr), i ∈ [Instr.sys nnn, Instr.call nnn] →
    s.stackDepth ≠ .bounded s.sp →
    ∃ t, exec i s = .next t ∧ t.stack = (s.pc + 2#16) :: s.stack ∧ t.pc.toNat = nnn.toNat ∧
      OnlyChanges [] [.pc, .stack] s t

/-- R90, R88, R27, D4: on a full stack 2NNN and 0NNN halt with STACK_OVERFLOW and the instruction's
word, and have no other effect. -/
def Obligations.CallOnAFullStackHalts : Prop :=
  ∀ (nnn : Addr12) (s : State) (i : Instr) (w : Nat),
    (i, w) ∈ [(Instr.sys nnn, nnn.toNat), (Instr.call nnn, 0x2000 + nnn.toNat)] →
    s.stackDepth = .bounded s.sp →
    ∃ t, exec i s = .next t ∧ HaltedAt .stackOverflow (BitVec.ofNat 16 w) s t

/-- R87: the word 00EE pops the call stack into PC, with nothing else changed; on an empty stack it halts with
STACK_UNDERFLOW and the word 0x00EE, and has no other effect. -/
def Obligations.ReturnPopsOrUnderflows : Prop :=
  ∀ s : State, decode 0x00EE#16 = .instr .ret ∧ ∃ t, exec .ret s = .next t ∧
    match s.stack with
    | [] => HaltedAt .stackUnderflow 0x00EE#16 s t
    | target :: rest => t.pc = target ∧ t.stack = rest ∧ OnlyChanges [] [.pc, .stack] s t

/-- R87, R90 (the source's call and return property): a call from P and the return that follows it,
in whatever state with that stack, resume at P + 2 with the stack as before the call. -/
def Obligations.ReturnResumesAfterTheCall : Prop :=
  ∀ (nnn : Addr12) (s t r : State), exec (.call nnn) s = .next t → s.stackDepth ≠ .bounded s.sp →
    r.stack = t.stack →
    ∃ u, exec .ret r = .next u ∧ u.pc = s.pc + 2#16 ∧ u.stack = s.stack

/-- R91, R92: the word 3XNN skips one word when VX = NN, 4XNN when VX ≠ NN; else PC advances by 2; nothing else
changes. -/
def Obligations.ImmediateSkips : Prop :=
  ∀ (x : Reg) (nn : Byte) (s : State) (i : Instr) (c : Bool) (w : Word),
    (i, c, w) ∈ [(Instr.seImm x nn, decide (s.reg x = nn), 0x3#4 ++ x ++ nn),
      (Instr.sneImm x nn, decide (s.reg x ≠ nn), 0x4#4 ++ x ++ nn)] →
    decode w = .instr i ∧
    ∃ t, exec i s = .next t ∧ t.pc = (if c then s.pc + 4#16 else s.pc + 2#16) ∧
      OnlyChanges [] [.pc] s t

/-- R93, R94: the word 5XY0 skips one word when VX = VY, 9XY0 when VX ≠ VY; else PC advances by 2; nothing else
changes. -/
def Obligations.RegisterSkips : Prop :=
  ∀ (x y : Reg) (s : State) (i : Instr) (c : Bool) (w : Word),
    (i, c, w) ∈ [(Instr.seReg x y, decide (s.reg x = s.reg y), 0x5#4 ++ x ++ y ++ 0x0#4),
      (Instr.sneReg x y, decide (s.reg x ≠ s.reg y), 0x9#4 ++ x ++ y ++ 0x0#4)] →
    decode w = .instr i ∧
    ∃ t, exec i s = .next t ∧ t.pc = (if c then s.pc + 4#16 else s.pc + 2#16) ∧
      OnlyChanges [] [.pc] s t

/-! ## Register-immediate and random (42_register_immediate.md) -/

/-- R96: the word 6XNN sets VX to NN; with X = F that is VF. -/
def Obligations.LoadImmediateSetsTheRegister : Prop :=
  ∀ (x : Reg) (nn : Byte) (s : State),
    decode (0x6#4 ++ x ++ nn) = .instr (.ldImm x nn) ∧
    ∃ t, exec (.ldImm x nn) s = .next t ∧ t.reg x = nn ∧ t.pc = s.pc + 2#16 ∧ OnlyChanges [x] [.pc] s t

/-- R97: the word 7XNN adds NN to VX modulo 256 and writes no flag. -/
def Obligations.AddImmediateWrapsWithoutFlag : Prop :=
  ∀ (x : Reg) (nn : Byte) (s : State),
    decode (0x7#4 ++ x ++ nn) = .instr (.addImm x nn) ∧
    ∃ t, exec (.addImm x nn) s = .next t ∧
      (t.reg x).toNat = ((s.reg x).toNat + nn.toNat) % 256 ∧ t.pc = s.pc + 2#16 ∧
      OnlyChanges [x] [.pc] s t

/-- R98, D29: CXNN sets VX to the next answer of the RNG port ANDed with NN, and takes exactly one
answer, whatever NN is. The answer is a free value (log entry 3). -/
def Obligations.RandomByteIsMasked : Prop :=
  ∀ (x : Reg) (nn : Byte) (s : State),
    ∃ t, exec (.rnd x nn) s = .next t ∧ t.reg x = Config.rngByte s.rngCalls &&& nn ∧
      t.rngCalls = s.rngCalls + 1 ∧ t.pc = s.pc + 2#16 ∧ OnlyChanges [x] [.pc, .rngCalls] s t

/-! ## Arithmetic and logic (43_alu.md) -/

/-- R100: the word 8XY0 copies VY to VX. -/
def Obligations.MoveCopiesTheRegister : Prop :=
  ∀ (x y : Reg) (s : State),
    decode (0x8#4 ++ x ++ y ++ 0x0#4) = .instr (.ldReg x y) ∧
    ∃ t, exec (.ldReg x y) s = .next t ∧ t.reg x = s.reg y ∧ t.pc = s.pc + 2#16 ∧
      OnlyChanges [x] [.pc] s t

/-- R101, R102, R103, D9: the logic operations write VX alone; VF is untouched unless it is VX. -/
def Obligations.LogicWritesTheDestinationAlone : Prop :=
  ∀ (x y : Reg) (s : State) (i : Instr) (b : Byte),
    (i, b) ∈ [(Instr.or x y, s.reg x ||| s.reg y), (Instr.and x y, s.reg x &&& s.reg y),
      (Instr.xor x y, s.reg x ^^^ s.reg y)] →
    ∃ t, exec i s = .next t ∧ t.reg x = b ∧ t.pc = s.pc + 2#16 ∧ OnlyChanges [x] [.pc] s t

/-- R104: the word 8XY4 sets VX to the sum modulo 256 and VF to the carry, which the sum overwrites when
X = F. -/
def Obligations.AddSetsCarry : Prop :=
  ∀ (x y : Reg) (s : State),
    decode (0x8#4 ++ x ++ y ++ 0x4#4) = .instr (.addReg x y) ∧
    ∃ t, exec (.addReg x y) s = .next t ∧
      (t.reg x).toNat = ((s.reg x).toNat + (s.reg y).toNat) % 256 ∧
      (x ≠ 0xF#4 → t.vf = if (s.reg x).toNat + (s.reg y).toNat > 255 then 0x01#8 else 0x00#8) ∧
      t.pc = s.pc + 2#16 ∧ OnlyChanges [x, 0xF#4] [.pc] s t

/-- R105, R107: the word 8XY5 sets VX to VX - VY and 8XY7 to VY - VX, modulo 256, and VF to 1 exactly when
there is no borrow, else to 0, which the result overwrites when X = F. -/
def Obligations.SubtractSetsNoBorrow : Prop :=
  ∀ (x y : Reg) (s : State) (i : Instr) (a b : Nat) (w : Word),
    (i, a, b, w) ∈ [(Instr.sub x y, (s.reg x).toNat, (s.reg y).toNat, 0x8#4 ++ x ++ y ++ 0x5#4),
      (Instr.subn x y, (s.reg y).toNat, (s.reg x).toNat, 0x8#4 ++ x ++ y ++ 0x7#4)] →
    decode w = .instr i ∧
    ∃ t, exec i s = .next t ∧ ((t.reg x).toNat : Int) = ((a : Int) - b) % 256 ∧
      (x ≠ 0xF#4 → t.vf = if a ≥ b then 0x01#8 else 0x00#8) ∧
      t.pc = s.pc + 2#16 ∧ OnlyChanges [x, 0xF#4] [.pc] s t

/-- R106, R108, R109, D6: whatever Y is, 8XY6 halves VX and puts its bit 0 into VF, 8XYE doubles it modulo 256 and puts its
bit 7 into VF; VF is the result when X = F. -/
def Obligations.ShiftsMoveOneBitIntoVf : Prop :=
  ∀ (x y : Reg) (s : State) (i : Instr) (r f : Nat),
    (i, r, f) ∈ [(Instr.shr x y, (s.reg x).toNat / 2, (s.reg x).toNat % 2),
      (Instr.shl x y, (s.reg x).toNat * 2 % 256, (s.reg x).toNat / 128)] →
    ∃ t, exec i s = .next t ∧ (t.reg x).toNat = r ∧ (x ≠ 0xF#4 → t.vf.toNat = f) ∧
      t.pc = s.pc + 2#16 ∧ OnlyChanges [x, 0xF#4] [.pc] s t

/-! ## Address register and memory transfers (44_index_and_memory.md) -/

/-- R111: the word ANNN sets I to NNN, its upper 4 bits to 0. -/
def Obligations.LoadIndexSetsI : Prop :=
  ∀ (nnn : Addr12) (s : State),
    decode (0xA#4 ++ nnn) = .instr (.ldI nnn) ∧
    ∃ t, exec (.ldI nnn) s = .next t ∧ t.i.toNat = nnn.toNat ∧ t.pc = s.pc + 2#16 ∧
      OnlyChanges [] [.i, .pc] s t

/-- R112, D7: FX1E adds VX to I modulo 65536 and writes no flag. -/
def Obligations.AddToIndexWritesNoFlag : Prop :=
  ∀ (x : Reg) (s : State),
    ∃ t, exec (.addI x) s = .next t ∧ t.i.toNat = (s.i.toNat + (s.reg x).toNat) % 65536 ∧
      t.pc = s.pc + 2#16 ∧ OnlyChanges [] [.i, .pc] s t

/-- R113, D18: FX29 sets I to the configuration's glyph address for VX, whatever that function is (log
entry 2), and accesses no memory. -/
def Obligations.GlyphAddressGoesToI : Prop :=
  ∀ (x : Reg) (s : State),
    ∃ t, exec (.ldF x) s = .next t ∧ t.i = Config.glyphAddr (s.reg x) ∧ t.pc = s.pc + 2#16 ∧
      OnlyChanges [] [.i, .pc] s t

/-- R114: FX33 stores the hundreds, tens and ones digit of VX at I, I+1 and I+2, and no other byte
changes. The premise that memory is in canonical form is part of the invariant. -/
def Obligations.DecimalDigitsAreStored : Prop :=
  ∀ (x : Reg) (s : State), s.mem.wf = true → s.base + 2 < 0x1000 →
    ∃ t, exec (.ldB x) s = .next t ∧
      (t.mem.read s.base).toNat = (s.reg x).toNat / 100 ∧
      (t.mem.read (s.base + 1)).toNat = (s.reg x).toNat / 10 % 10 ∧
      (t.mem.read (s.base + 2)).toNat = (s.reg x).toNat % 10 ∧
      (∀ a, a < s.base ∨ s.base + 2 < a → t.mem.read a = s.mem.read a) ∧
      t.pc = s.pc + 2#16 ∧ OnlyChanges [] [.mem, .pc] s t

/-- R115, D10: FX55 stores V0 … VX at I … I+X; no other byte and no register, I included, changes. -/
def Obligations.RegistersAreStored : Prop :=
  ∀ (x : Reg) (s : State), s.mem.wf = true → s.base + x.toNat < 0x1000 →
    ∃ t, exec (.ldMemVx x) s = .next t ∧
      (∀ j : Reg, j.toNat ≤ x.toNat → t.mem.read (s.base + j.toNat) = s.reg j) ∧
      (∀ a, a < s.base ∨ s.base + x.toNat < a → t.mem.read a = s.mem.read a) ∧
      t.pc = s.pc + 2#16 ∧ OnlyChanges [] [.mem, .pc] s t

/-- R116, D10: FX65 loads V0 … VX from I … I+X; no later register, no byte and not I changes. -/
def Obligations.RegistersAreLoaded : Prop :=
  ∀ (x : Reg) (s : State), s.base + x.toNat < 0x1000 →
    ∃ t, exec (.ldVxMem x) s = .next t ∧
      (∀ j : Reg, j.toNat ≤ x.toNat → t.reg j = s.mem.read (s.base + j.toNat)) ∧
      (∀ j : Reg, x.toNat < j.toNat → t.reg j = s.reg j) ∧
      t.pc = s.pc + 2#16 ∧ ∀ p, p ∉ [Part.pc] → p.Kept s t

/-- R49, R52, R56, R114 to R116, R121, D13: a transfer of `n` > 0 bytes from I whose last address is at or past
0x1000 halts with OUT_OF_BOUNDS and the instruction's word; no byte, register or pixel changes. The word is the
model's `encode i` (DEDUCED, log entry 10). -/
def Obligations.TransfersOutOfBoundsHalt : Prop :=
  ∀ (x y : Reg) (h : Nibble) (s : State) (i : Instr) (n : Nat),
    (i, n) ∈ [(Instr.ldB x, 3), (Instr.ldMemVx x, x.toNat + 1), (Instr.ldVxMem x, x.toNat + 1),
      (Instr.drw x y h, h.toNat)] →
    0 < n → 0x1000 ≤ s.base + (n - 1) →
    ∃ t, exec i s = .next t ∧ HaltedAt .outOfBounds (encode i) s t

/-- R62, R150: a word that FX55 stores over the next instruction is what the engine's next step executes, and what
the machine's next step executes after the ticks that fall before it (R64, D22; DESIGN CHOICE, log entry 6). -/
def Obligations.StoredCodeIsExecuted : Prop :=
  ∀ (x : Reg) (s : State) (w : Word) (i : Instr), s.mem.wf = true → s.runState = .running →
    s.base = s.pc.toNat + 2 → 1 ≤ x.toNat → s.base + x.toNat < 0x1000 →
    w.toNat = 256 * (s.reg 0x0#4).toNat + (s.reg 0x1#4).toNat → decode w = .instr i →
    ∃ t, exec (.ldMemVx x) s = .next t ∧ engineStep t = exec i t ∧ step t = exec i (betweenSteps t)

/-! ## Display (45_display.md) -/

/-- R120, R117: the word 00E0 sets every pixel to 0, so that a snapshot is an all-zero grid, and changes
nothing else. -/
def Obligations.ClearScreenClearsEveryPixel : Prop :=
  ∀ s : State, decode 0x00E0#16 = .instr .cls ∧
    ∃ t, exec .cls s = .next t ∧ (∀ x y, t.fb.pixel x y = false) ∧
      snapshot t = List.replicate 32 (List.replicate 64 false) ∧ t.pc = s.pc + 2#16 ∧
      OnlyChanges [] [.fb, .pc] s t

/-- R121, R118, R119, D5: DXYN flips exactly the pixels under the sprite's 1 bits, wrapping at both edges,
and VF is 1 exactly when one of them was set, else 0. N = 0 draws nothing and writes VF = 0. -/
def Obligations.DrawXorsTheSprite : Prop :=
  ∀ (x y : Reg) (n : Nibble) (s : State) (rows : List Byte),
    n.toNat = 0 ∨ s.base + (n.toNat - 1) < 0x1000 →
    rows = (List.range n.toNat).map (fun r => s.mem.read (s.base + r)) →
    ∃ t, exec (.drw x y n) s = .next t ∧
      (∀ px py, SpriteCovers (s.reg x).toNat (s.reg y).toNat rows px py →
        t.fb.pixel px py = !s.fb.pixel px py) ∧
      (∀ px py, ¬ SpriteCovers (s.reg x).toNat (s.reg y).toNat rows px py →
        t.fb.pixel px py = s.fb.pixel px py) ∧
      (t.vf = 0x01#8 ↔ ∃ px py, SpriteCovers (s.reg x).toNat (s.reg y).toNat rows px py ∧
        s.fb.pixel px py = true) ∧
      (t.vf ≠ 0x01#8 → t.vf = 0x00#8) ∧
      t.pc = s.pc + 2#16 ∧ OnlyChanges [0xF#4] [.fb, .pc] s t

/-- R118, R121, D5: drawing the same sprite twice at the same place restores every pixel, and the second
draw reports a collision exactly when some covered pixel was clear before the first (DEDUCED, log entry 22). With X
or Y = F the second draw may be at another place, since the first wrote VF; `DrawXorsTheSprite` covers each draw. -/
def Obligations.DrawingTwiceRestoresTheScreen : Prop :=
  ∀ (x y : Reg) (n : Nibble) (s : State) (rows : List Byte), x ≠ 0xF#4 → y ≠ 0xF#4 →
    n.toNat = 0 ∨ s.base + (n.toNat - 1) < 0x1000 →
    rows = (List.range n.toNat).map (fun r => s.mem.read (s.base + r)) →
    ∃ t u, exec (.drw x y n) s = .next t ∧ exec (.drw x y n) t = .next u ∧
      (∀ px py, u.fb.pixel px py = s.fb.pixel px py) ∧
      (u.vf = 0x01#8 ↔ ∃ px py, SpriteCovers (s.reg x).toNat (s.reg y).toNat rows px py ∧
        s.fb.pixel px py = false)

/-! ## Keys and timers (46_keys_and_timers.md) -/

/-- R122, R123, D16: EX9E skips when key VX is down, EXA1 when it is up, neither with no input source
attached; the port is called once if one is attached. The answer is a free value (log entry 4). -/
def Obligations.KeySkips : Prop :=
  ∀ (x : Reg) (s : State) (i : Instr) (wanted : Bool),
    (i, wanted) ∈ [(Instr.skp x, true), (Instr.sknp x, false)] →
    ∃ t, exec i s = .next t ∧
      t.pc = (if s.inputAttached = true ∧ Config.keyDown s.keyDownCalls (s.reg x) = wanted
        then s.pc + 4#16 else s.pc + 2#16) ∧
      t.keyDownCalls = s.keyDownCalls + (if s.inputAttached then 1 else 0) ∧
      OnlyChanges [] [.pc, .keyDownCalls] s t

/-- R125, D15: FX0A records X, enters AWAIT_KEY and leaves PC; it does not poll. -/
def Obligations.KeyWaitBegins : Prop :=
  ∀ (x : Reg) (s : State),
    ∃ t, exec (.ldVxK x) s = .next t ∧ t.waitX = x ∧ t.runState = .awaitKey ∧
      OnlyChanges [] [.waitX, .runState] s t

/-- R124, R139, R45: FX07 reads the delay counter of the timer device (D22), which it leaves as it is. -/
def Obligations.DelayTimerIsRead : Prop :=
  ∀ (x : Reg) (s : State),
    ∃ t, exec (.ldVxDt x) s = .next t ∧ t.reg x = s.dt ∧ t.pc = s.pc + 2#16 ∧ OnlyChanges [x] [.pc] s t

/-- R127, R128, R139: FX15 sets the delay counter of the timer device (D22) to VX and FX18 the sound counter, each
leaving the other. -/
def Obligations.TimersAreSet : Prop :=
  ∀ (x : Reg) (s : State),
    (∃ t, exec (.ldDtVx x) s = .next t ∧ t.dt = s.reg x ∧ t.pc = s.pc + 2#16 ∧
      OnlyChanges [] [.pc, .dt] s t) ∧
    (∃ t, exec (.ldStVx x) s = .next t ∧ t.st = s.reg x ∧ t.pc = s.pc + 2#16 ∧
      OnlyChanges [] [.pc, .st] s t)

/-- R152, R64, D22: FX07 after FX15, with any number of ticks between them, reads the value written less those ticks,
so at most that value, and 0 stays 0. -/
def Obligations.DelayReadBackIsNoLarger : Prop :=
  ∀ (x y : Reg) (s : State) (n : Nat),
    ∃ t v u, exec (.ldDtVx x) s = .next t ∧ transitions (List.replicate n .tick) t = .next v ∧
      exec (.ldVxDt y) v = .next u ∧ (u.reg y).toNat = (s.reg x).toNat - n ∧
      (u.reg y).toNat ≤ (s.reg x).toNat ∧ (s.reg x = 0x00#8 → u.reg y = 0x00#8)

/-! ## Rules of the whole machine -/

/-- R17: VF changes only as the flag of a flag-writing instruction, or as the named destination. -/
def Obligations.VfIsWrittenOnlyAsFlagOrDestination : Prop :=
  ∀ (i : Instr) (s t : State), exec i s = .next t → t.vf ≠ s.vf →
    (match i with
     | .addReg _ _ => True
     | .sub _ _ => True
     | .shr _ _ => True
     | .subn _ _ => True
     | .shl _ _ => True
     | .drw _ _ _ => True
     | .ldImm x _ => x = 0xF#4
     | .addImm x _ => x = 0xF#4
     | .ldReg x _ => x = 0xF#4
     | .or x _ => x = 0xF#4
     | .and x _ => x = 0xF#4
     | .xor x _ => x = 0xF#4
     | .rnd x _ => x = 0xF#4
     | .ldVxDt x => x = 0xF#4
     | .ldVxMem x => x = 0xF#4
     | _ => False)

/-- R19: only ANNN, FX1E and FX29 change I. -/
def Obligations.IndexIsWrittenOnlyByItsInstructions : Prop :=
  ∀ (i : Instr) (s t : State), exec i s = .next t → t.i ≠ s.i →
    (∃ nnn, i = .ldI nnn) ∨ (∃ x, i = .addI x) ∨ ∃ x, i = .ldF x

/-- R28: only 0NNN, 2NNN and 00EE change the call stack, by one entry. -/
def Obligations.StackIsTouchedOnlyByCallsAndReturn : Prop :=
  ∀ (i : Instr) (s t : State), exec i s = .next t → t.stack ≠ s.stack →
    (((∃ nnn, i = .sys nnn) ∨ ∃ nnn, i = .call nnn) ∧ t.stack = (s.pc + 2#16) :: s.stack) ∨
    (i = .ret ∧ s.stack = t.pc :: t.stack)

/-- R29: only 00E0 and DXYN change a pixel. -/
def Obligations.PixelsAreWrittenOnlyByClearAndDraw : Prop :=
  ∀ (i : Instr) (s t : State) (px py : Nat), exec i s = .next t →
    t.fb.pixel px py ≠ s.fb.pixel px py → i = .cls ∨ ∃ x y n, i = .drw x y n

/-- R55: only FX33 and FX55 change memory, and only the bytes from I that the rule's table lists. -/
def Obligations.MemoryIsWrittenOnlyByStores : Prop :=
  ∀ (i : Instr) (s t : State) (a : Nat), s.mem.wf = true → exec i s = .next t →
    t.mem.read a ≠ s.mem.read a →
    (∃ x, i = .ldB x ∧ s.base ≤ a ∧ a ≤ s.base + 2) ∨
    (∃ x, i = .ldMemVx x ∧ s.base ≤ a ∧ a ≤ s.base + x.toNat)

/-- R42, R43, R45, R140: CXNN calls the RNG port once, EX9E and EXA1 `KeyDown` once if an input source is attached
(D16), and no other instruction calls them; no instruction but FX15 and FX18 writes a timer counter, and none draws
ticks; no instruction calls `NextKey`, FX0A included, whose executing step does not poll (R125, D15): the wait step
alone does (`KeyWaitStepPollsOnce`). Log entry 8 numbers the calls. -/
def Obligations.PortsAreCalledOnlyByTheirInstructions : Prop :=
  ∀ (i : Instr) (s t : State), exec i s = .next t →
    t.rngCalls = s.rngCalls + (match i with | .rnd _ _ => 1 | _ => 0) ∧
    t.keyDownCalls = s.keyDownCalls +
      (match i with
       | .skp _ => if s.inputAttached then 1 else 0
       | .sknp _ => if s.inputAttached then 1 else 0
       | _ => 0) ∧
    t.dt = (match i with | .ldDtVx x => s.reg x | _ => s.dt) ∧
    t.st = (match i with | .ldStVx x => s.reg x | _ => s.st) ∧
    t.tickDraws = s.tickDraws ∧
    t.nextKeyCalls = s.nextKeyCalls

/-- R21, R80: the next PC of every instruction; a conditional skip adds 4 when its condition holds, else 2.
EX9E and EXA1 never skip with no input source (D16), and with one they follow the answer of `KeyDown`, a free
value (log entry 4). -/
def Obligations.NextPcFollowsTheTable : Prop :=
  ∀ (i : Instr) (s t : State), s.runState = .running → exec i s = .next t →
    if t.runState = .halted then t.pc = s.pc
    else match i with
      | .jp nnn => t.pc.toNat = nnn.toNat
      | .call nnn => t.pc.toNat = nnn.toNat
      | .sys nnn => t.pc.toNat = nnn.toNat
      | .ret => s.stack.head? = some t.pc
      | .jpV0 nnn => t.pc.toNat = (s.reg 0x0#4).toNat + nnn.toNat
      | .seImm x nn => t.pc = if s.reg x = nn then s.pc + 4#16 else s.pc + 2#16
      | .sneImm x nn => t.pc = if s.reg x = nn then s.pc + 2#16 else s.pc + 4#16
      | .seReg x y => t.pc = if s.reg x = s.reg y then s.pc + 4#16 else s.pc + 2#16
      | .sneReg x y => t.pc = if s.reg x = s.reg y then s.pc + 2#16 else s.pc + 4#16
      | .skp x => t.pc = if s.inputAttached = true ∧ Config.keyDown s.keyDownCalls (s.reg x) = true
          then s.pc + 4#16 else s.pc + 2#16
      | .sknp x => t.pc = if s.inputAttached = true ∧ Config.keyDown s.keyDownCalls (s.reg x) = false
          then s.pc + 4#16 else s.pc + 2#16
      | .ldVxK _ => t.pc = s.pc
      | _ => t.pc = s.pc + 2#16

/-- R34, D19: what the status registers hold has no influence on what an instruction does: from two states
that differ in them alone, every instruction leaves states that differ at most in them. -/
def Obligations.StatusRegistersAreInvisibleToPrograms : Prop :=
  ∀ (i : Instr) (s t : State) (r : HaltReason) (w : Word) (v : Bool) (x : Reg), exec i s = .next t →
    ∃ u, exec i { s with haltReason := r, faultWord := w, faultWordValid := v, waitX := x } = .next u ∧
      OnlyChanges [] [.haltReason, .faultWord, .waitX] t u

/-- R37, R8: the configuration is no state: no step changes it. -/
def Obligations.ConfigurationIsConstant : Prop :=
  ∀ s t : State, step s = .next t → t.stackDepth = s.stackDepth ∧ t.inputAttached = s.inputAttached

/-- R148, R89: a jump to its own address runs for ever and changes nothing; only the timer device ticks on (log
entry 6). -/
def Obligations.SelfJumpChangesNothing : Prop :=
  ∀ (s : State) (w : Word) (nnn : Addr12) (k : Nat), s.runState = .running → s.pc.toNat ≤ 0xFFE →
    w.toNat = 256 * (s.mem.read s.pc.toNat).toNat + (s.mem.read (s.pc.toNat + 1)).toNat →
    decode w = .instr (.jp nnn) → nnn.toNat = s.pc.toNat →
    engineStep s = .next s ∧ ∃ t, core.run k s = .next t ∧ OnlyChanges [] tickParts s t

/-! ## Invariant, reset and load -/

/-- R23, R25, R31, R32, R48, R130: the invariant is kept by every step from every state that meets it. -/
def Obligations.EveryStepKeepsTheInvariant : Prop :=
  ∀ s t : State, Inv s → step s = .next t → Inv t

/-- R38, R144: the invariant holds at reset. -/
def Obligations.ResetMeetsTheInvariant : Prop :=
  Inv State.reset

/-- R144, R38, R145: the values a reset leaves, both at power-on and by the host's `Reset()` in any state,
which does not reach the timer device's counters (log entry 7). The zeros of V0-VF, I and memory are the spec's
decision D11. -/
def Obligations.ResetLeavesTheResetValues : Prop :=
  ∀ s : State, (hostReset s).dt = s.dt ∧ (hostReset s).st = s.st ∧
    ∀ t, t = State.reset ∨ t = hostReset s →
      t.pc = 0x200#16 ∧ (∀ j, t.reg j = 0x00#8) ∧ t.i = 0x0000#16 ∧ (∀ a, t.mem.read a = 0x00#8) ∧
      t.sp = 0 ∧ (∀ x y, t.fb.pixel x y = false) ∧ t.runState = .running ∧ t.haltReason = .none ∧
      t.faultWord = 0x0000#16 ∧ t.faultWordValid = false ∧ t.waitX = 0x0#4

/-- R41, R131: `Load` copies the bytes from the offset on and changes nothing else, or, when they do not fit,
answers LOAD_TOO_LARGE with no next state at all. -/
def Obligations.LoadCopiesOrFails : Prop :=
  ∀ (offset : Nat) (bytes : List Byte) (s : State), s.mem.wf = true →
    if offset + bytes.length > 4096 then load offset bytes s = .error .loadTooLarge
    else ∃ t, load offset bytes s = .ok t ∧
      (∀ k, k < bytes.length → t.mem.read (offset + k) = bytes.getD k 0#8) ∧
      (∀ a, a < offset ∨ offset + bytes.length ≤ a → t.mem.read a = s.mem.read a) ∧
      OnlyChanges [] [.mem] s t

/-! ## The two kinds of transition (40_execution_loop.md R85) -/

/-- R85, R64, R139, D22: a step of the machine is some number of `Tick()` transitions of the timer device, then the
engine's step. That number is free (log entry 6), and the ticks change the device's counters alone, each of which one
tick takes down by 1, but not below 0. -/
def Obligations.TicksFallBetweenSteps : Prop :=
  ∀ s : State,
    step s = engineStep (betweenSteps s) ∧
    step s = transitions (List.replicate (Config.ticks s.tickDraws) .tick ++ [.step])
      { s with tickDraws := s.tickDraws + 1 } ∧
    (betweenSteps s).dt.toNat = s.dt.toNat - Config.ticks s.tickDraws ∧
    (betweenSteps s).st.toNat = s.st.toNat - Config.ticks s.tickDraws ∧
    (betweenSteps s).tickDraws = s.tickDraws + 1 ∧ OnlyChanges [] tickParts s (betweenSteps s) ∧
    ((tick s).dt.toNat = s.dt.toNat - 1 ∧ (tick s).st.toNat = s.st.toNat - 1 ∧
      OnlyChanges [] [.dt, .st] s (tick s))
end

