-- ==== Sys2Proof/Laws/Encoding.lean ====
section
/-! SUPPORT. Fields and formats: each field of a packed word is what was packed, and a word is the pack of its fields. -/

namespace Sys2Proof

/-! ## Fields of a packed word (R66, R67) -/

section Bits

theorem word_ext {a b : Word} (h : ∀ k < 16, a.getLsbD k = b.getLsbD k) : a = b :=
  BitVec.eq_of_getLsbD_eq fun k hk => h k hk

theorem packAddr_getLsbD (op : Nibble) (nnn : Addr12) (k : Nat) :
    (packAddr op nnn).getLsbD k = if k < 12 then nnn.getLsbD k else op.getLsbD (k - 12) :=
  BitVec.getLsbD_append

theorem packRegByte_getLsbD (op : Nibble) (x : Reg) (nn : Byte) (k : Nat) :
    (packRegByte op x nn).getLsbD k =
      if k < 8 then nn.getLsbD k else if k < 12 then x.getLsbD (k - 8) else op.getLsbD (k - 12) := by
  refine (BitVec.getLsbD_append (x := op ++ x) (y := nn)).trans ?_
  rw [BitVec.getLsbD_append]
  split <;> [rfl; skip]
  split <;> split <;> first | rfl | omega

theorem packRegReg_getLsbD (op : Nibble) (x y : Reg) (n : Nibble) (k : Nat) :
    (packRegReg op x y n).getLsbD k =
      if k < 4 then n.getLsbD k else if k < 8 then y.getLsbD (k - 4)
      else if k < 12 then x.getLsbD (k - 8) else op.getLsbD (k - 12) := by
  refine (BitVec.getLsbD_append (x := op ++ x ++ y) (y := n)).trans ?_
  rw [BitVec.getLsbD_append, BitVec.getLsbD_append]
  repeat' split
  all_goals first | rfl | omega

end Bits

section Fields
variable (op : Nibble) (x y : Reg) (n : Nibble) (nn : Byte) (nnn : Addr12)

@[simp] theorem fieldOp_packAddr : fieldOp (packAddr op nnn) = op := by
  refine BitVec.eq_of_getLsbD_eq fun k hk => ?_
  rw [fieldOp, BitVec.getLsbD_extractLsb', packAddr_getLsbD]
  simp [hk]

@[simp] theorem fieldNNN_packAddr : fieldNNN (packAddr op nnn) = nnn := by
  refine BitVec.eq_of_getLsbD_eq fun k hk => ?_
  rw [fieldNNN, BitVec.getLsbD_extractLsb', packAddr_getLsbD]
  simp [hk]

@[simp] theorem fieldOp_packRegByte : fieldOp (packRegByte op x nn) = op := by
  refine BitVec.eq_of_getLsbD_eq fun k hk => ?_
  rw [fieldOp, BitVec.getLsbD_extractLsb', packRegByte_getLsbD]
  simp [hk, show ¬ 12 + k < 8 by omega]

@[simp] theorem fieldX_packRegByte : fieldX (packRegByte op x nn) = x := by
  refine BitVec.eq_of_getLsbD_eq fun k hk => ?_
  rw [fieldX, BitVec.getLsbD_extractLsb', packRegByte_getLsbD]
  simp [hk, show 8 + k < 12 by omega]

@[simp] theorem fieldNN_packRegByte : fieldNN (packRegByte op x nn) = nn := by
  refine BitVec.eq_of_getLsbD_eq fun k hk => ?_
  rw [fieldNN, BitVec.getLsbD_extractLsb', packRegByte_getLsbD]
  simp [hk]

@[simp] theorem fieldOp_packRegReg : fieldOp (packRegReg op x y n) = op := by
  refine BitVec.eq_of_getLsbD_eq fun k hk => ?_
  rw [fieldOp, BitVec.getLsbD_extractLsb', packRegReg_getLsbD]
  simp [hk, show ¬ 12 + k < 4 by omega, show ¬ 12 + k < 8 by omega]

@[simp] theorem fieldX_packRegReg : fieldX (packRegReg op x y n) = x := by
  refine BitVec.eq_of_getLsbD_eq fun k hk => ?_
  rw [fieldX, BitVec.getLsbD_extractLsb', packRegReg_getLsbD]
  simp [hk, show ¬ 8 + k < 4 by omega, show 8 + k < 12 by omega]

@[simp] theorem fieldY_packRegReg : fieldY (packRegReg op x y n) = y := by
  refine BitVec.eq_of_getLsbD_eq fun k hk => ?_
  rw [fieldY, BitVec.getLsbD_extractLsb', packRegReg_getLsbD]
  simp [hk, show 4 + k < 8 by omega]

@[simp] theorem fieldN_packRegReg : fieldN (packRegReg op x y n) = n := by
  refine BitVec.eq_of_getLsbD_eq fun k hk => ?_
  rw [fieldN, BitVec.getLsbD_extractLsb', packRegReg_getLsbD]
  simp [hk]

end Fields

/-- A nibble that is none of 0 to 14 is 15: what the decoder's last arm knows of the family. -/
theorem nibble_eq_F : ∀ o : Nibble, o ≠ 0x0#4 → o ≠ 0x1#4 → o ≠ 0x2#4 → o ≠ 0x3#4 → o ≠ 0x4#4 → o ≠ 0x5#4 →
    o ≠ 0x6#4 → o ≠ 0x7#4 → o ≠ 0x8#4 → o ≠ 0x9#4 → o ≠ 0xA#4 → o ≠ 0xB#4 → o ≠ 0xC#4 → o ≠ 0xD#4 →
    o ≠ 0xE#4 → o = 0xF#4 := by
  intros
  bv_omega

/-! ## A word is the pack of its fields -/

theorem packAddr_fields (w : Word) : packAddr (fieldOp w) (fieldNNN w) = w := by
  refine word_ext fun k hk => ?_
  rw [packAddr_getLsbD, fieldOp, fieldNNN, BitVec.getLsbD_extractLsb', BitVec.getLsbD_extractLsb']
  split
  · simp [*]
  · simp [show k - 12 < 4 by omega, show 12 + (k - 12) = k by omega]

theorem packRegByte_fields (w : Word) : packRegByte (fieldOp w) (fieldX w) (fieldNN w) = w := by
  refine word_ext fun k hk => ?_
  rw [packRegByte_getLsbD, fieldOp, fieldX, fieldNN, BitVec.getLsbD_extractLsb', BitVec.getLsbD_extractLsb',
    BitVec.getLsbD_extractLsb']
  split
  · simp [*]
  · split
    · simp [show k - 8 < 4 by omega, show 8 + (k - 8) = k by omega]
    · simp [show k - 12 < 4 by omega, show 12 + (k - 12) = k by omega]

theorem packRegReg_fields (w : Word) :
    packRegReg (fieldOp w) (fieldX w) (fieldY w) (fieldN w) = w := by
  refine word_ext fun k hk => ?_
  rw [packRegReg_getLsbD, fieldOp, fieldX, fieldY, fieldN, BitVec.getLsbD_extractLsb',
    BitVec.getLsbD_extractLsb', BitVec.getLsbD_extractLsb', BitVec.getLsbD_extractLsb']
  split
  · simp [*]
  · split
    · simp [show k - 4 < 4 by omega, show 4 + (k - 4) = k by omega]
    · split
      · simp [show k - 8 < 4 by omega, show 8 + (k - 8) = k by omega]
      · simp [show k - 12 < 4 by omega, show 12 + (k - 12) = k by omega]

/-! ## Bytes of a word (R53) -/

/-- The two bytes of a word, the high one first, make the word again. -/
@[simp] theorem wordOfBytes_bytes (w : Word) : wordOfBytes (wordHi w) (wordLo w) = w := by
  refine word_ext fun k hk => ?_
  rw [wordOfBytes]
  refine (BitVec.getLsbD_append (x := wordHi w) (y := wordLo w)).trans ?_
  rw [wordHi, wordLo, BitVec.getLsbD_extractLsb', BitVec.getLsbD_extractLsb']
  split
  · simp [*]
  · simp [show k - 8 < 8 by omega, show 8 + (k - 8) = k by omega]

/-- The big-endian word as a number (R51, R65). -/
theorem wordOfBytes_toNat (hi lo : Byte) : (wordOfBytes hi lo).toNat = 256 * hi.toNat + lo.toNat := by
  have h : (wordOfBytes hi lo).toNat = hi.toNat <<< 8 ||| lo.toNat := BitVec.toNat_append hi lo
  rw [h, ← Nat.shiftLeft_add_eq_or_of_lt lo.isLt, Nat.shiftLeft_eq]
  omega

/-! ## Masks of the opcode map (R71) -/

section Masks
variable (op : Nibble) (x y : Reg) (n : Nibble) (nn : Byte) (nnn : Addr12)

theorem packAddr_and (op' : Nibble) (nnn' : Addr12) :
    packAddr op nnn &&& packAddr op' nnn' = packAddr (op &&& op') (nnn &&& nnn') :=
  BitVec.and_append

theorem packRegByte_and (op' : Nibble) (x' : Reg) (nn' : Byte) :
    packRegByte op x nn &&& packRegByte op' x' nn' = packRegByte (op &&& op') (x &&& x') (nn &&& nn') := by
  refine word_ext fun k _ => ?_
  simp only [BitVec.getLsbD_and, packRegByte_getLsbD]
  split <;> [rfl; skip]
  split <;> rfl

theorem packRegReg_and (op' : Nibble) (x' y' : Reg) (n' : Nibble) :
    packRegReg op x y n &&& packRegReg op' x' y' n' =
      packRegReg (op &&& op') (x &&& x') (y &&& y') (n &&& n') := by
  refine word_ext fun k _ => ?_
  simp only [BitVec.getLsbD_and, packRegReg_getLsbD]
  split <;> [rfl; skip]
  split <;> [rfl; skip]
  split <;> rfl

/-- The mask 0xF000 keeps the family nibble. -/
theorem packAddr_and_F000 : packAddr op nnn &&& 0xF000#16 = packAddr op 0#12 := by
  rw [show (0xF000#16) = packAddr 0xF#4 0#12 from rfl, packAddr_and]
  congr 1
  · exact BitVec.and_allOnes
  · simp

theorem packRegByte_and_F000 : packRegByte op x nn &&& 0xF000#16 = packAddr op 0#12 := by
  have h := packAddr_fields (packRegByte op x nn)
  rw [fieldOp_packRegByte] at h
  rw [← h, packAddr_and_F000]

theorem packRegReg_and_F000 : packRegReg op x y n &&& 0xF000#16 = packAddr op 0#12 := by
  have h := packAddr_fields (packRegReg op x y n)
  rw [fieldOp_packRegReg] at h
  rw [← h, packAddr_and_F000]

/-- The mask 0xF00F keeps the family nibble and N. -/
theorem packRegReg_and_F00F : packRegReg op x y n &&& 0xF00F#16 = packRegReg op 0#4 0#4 n := by
  rw [show (0xF00F#16) = packRegReg 0xF#4 0#4 0#4 0xF#4 from rfl, packRegReg_and]
  congr 1
  · exact BitVec.and_allOnes
  · simp
  · simp
  · exact BitVec.and_allOnes

/-- The mask 0xF0FF keeps the family nibble and NN. -/
theorem packRegByte_and_F0FF : packRegByte op x nn &&& 0xF0FF#16 = packRegByte op 0#4 nn := by
  rw [show (0xF0FF#16) = packRegByte 0xF#4 0#4 0xFF#8 from rfl, packRegByte_and]
  congr 1
  · exact BitVec.and_allOnes
  · simp
  · exact BitVec.and_allOnes

end Masks

end Sys2Proof
end

