-- ==== Sys2Proof/Laws/State.lean ====
section
/-! SUPPORT. One lemma per field per update of the state: no later proof unfolds a record update. -/

namespace Sys2Proof.Machine

section Updates

variable (s : State)

/-! ### `State.setReg` -/

@[simp] theorem setReg_v (x : Reg) (b : Byte) : (s.setReg x b).v = s.v.set x.toNat b x.isLt := rfl
@[simp] theorem setReg_i (x : Reg) (b : Byte) : (s.setReg x b).i = s.i := rfl
@[simp] theorem setReg_pc (x : Reg) (b : Byte) : (s.setReg x b).pc = s.pc := rfl
@[simp] theorem setReg_stack (x : Reg) (b : Byte) : (s.setReg x b).stack = s.stack := rfl
@[simp] theorem setReg_fb (x : Reg) (b : Byte) : (s.setReg x b).fb = s.fb := rfl
@[simp] theorem setReg_mem (x : Reg) (b : Byte) : (s.setReg x b).mem = s.mem := rfl
@[simp] theorem setReg_runState (x : Reg) (b : Byte) : (s.setReg x b).runState = s.runState := rfl
@[simp] theorem setReg_haltReason (x : Reg) (b : Byte) : (s.setReg x b).haltReason = s.haltReason := rfl
@[simp] theorem setReg_faultWord (x : Reg) (b : Byte) : (s.setReg x b).faultWord = s.faultWord := rfl
@[simp] theorem setReg_faultWordValid (x : Reg) (b : Byte) : (s.setReg x b).faultWordValid = s.faultWordValid := rfl
@[simp] theorem setReg_waitX (x : Reg) (b : Byte) : (s.setReg x b).waitX = s.waitX := rfl
@[simp] theorem setReg_dt (x : Reg) (b : Byte) : (s.setReg x b).dt = s.dt := rfl
@[simp] theorem setReg_st (x : Reg) (b : Byte) : (s.setReg x b).st = s.st := rfl
@[simp] theorem setReg_stackDepth (x : Reg) (b : Byte) : (s.setReg x b).stackDepth = s.stackDepth := rfl
@[simp] theorem setReg_inputAttached (x : Reg) (b : Byte) : (s.setReg x b).inputAttached = s.inputAttached := rfl
@[simp] theorem setReg_rngCalls (x : Reg) (b : Byte) : (s.setReg x b).rngCalls = s.rngCalls := rfl
@[simp] theorem setReg_keyDownCalls (x : Reg) (b : Byte) : (s.setReg x b).keyDownCalls = s.keyDownCalls := rfl
@[simp] theorem setReg_nextKeyCalls (x : Reg) (b : Byte) : (s.setReg x b).nextKeyCalls = s.nextKeyCalls := rfl
@[simp] theorem setReg_tickDraws (x : Reg) (b : Byte) : (s.setReg x b).tickDraws = s.tickDraws := rfl
@[simp] theorem setReg_trace (x : Reg) (b : Byte) : (s.setReg x b).trace = s.trace := rfl

/-! ### `State.setVf` -/

@[simp] theorem setVf_v (b : Byte) : (s.setVf b).v = s.v.set regF.toNat b regF.isLt := rfl
@[simp] theorem setVf_i (b : Byte) : (s.setVf b).i = s.i := rfl
@[simp] theorem setVf_pc (b : Byte) : (s.setVf b).pc = s.pc := rfl
@[simp] theorem setVf_stack (b : Byte) : (s.setVf b).stack = s.stack := rfl
@[simp] theorem setVf_fb (b : Byte) : (s.setVf b).fb = s.fb := rfl
@[simp] theorem setVf_mem (b : Byte) : (s.setVf b).mem = s.mem := rfl
@[simp] theorem setVf_runState (b : Byte) : (s.setVf b).runState = s.runState := rfl
@[simp] theorem setVf_haltReason (b : Byte) : (s.setVf b).haltReason = s.haltReason := rfl
@[simp] theorem setVf_faultWord (b : Byte) : (s.setVf b).faultWord = s.faultWord := rfl
@[simp] theorem setVf_faultWordValid (b : Byte) : (s.setVf b).faultWordValid = s.faultWordValid := rfl
@[simp] theorem setVf_waitX (b : Byte) : (s.setVf b).waitX = s.waitX := rfl
@[simp] theorem setVf_dt (b : Byte) : (s.setVf b).dt = s.dt := rfl
@[simp] theorem setVf_st (b : Byte) : (s.setVf b).st = s.st := rfl
@[simp] theorem setVf_stackDepth (b : Byte) : (s.setVf b).stackDepth = s.stackDepth := rfl
@[simp] theorem setVf_inputAttached (b : Byte) : (s.setVf b).inputAttached = s.inputAttached := rfl
@[simp] theorem setVf_rngCalls (b : Byte) : (s.setVf b).rngCalls = s.rngCalls := rfl
@[simp] theorem setVf_keyDownCalls (b : Byte) : (s.setVf b).keyDownCalls = s.keyDownCalls := rfl
@[simp] theorem setVf_nextKeyCalls (b : Byte) : (s.setVf b).nextKeyCalls = s.nextKeyCalls := rfl
@[simp] theorem setVf_tickDraws (b : Byte) : (s.setVf b).tickDraws = s.tickDraws := rfl
@[simp] theorem setVf_trace (b : Byte) : (s.setVf b).trace = s.trace := rfl

/-! ### `State.setI` -/

@[simp] theorem setI_v (w : Word) : (s.setI w).v = s.v := rfl
@[simp] theorem setI_i (w : Word) : (s.setI w).i = w := rfl
@[simp] theorem setI_pc (w : Word) : (s.setI w).pc = s.pc := rfl
@[simp] theorem setI_stack (w : Word) : (s.setI w).stack = s.stack := rfl
@[simp] theorem setI_fb (w : Word) : (s.setI w).fb = s.fb := rfl
@[simp] theorem setI_mem (w : Word) : (s.setI w).mem = s.mem := rfl
@[simp] theorem setI_runState (w : Word) : (s.setI w).runState = s.runState := rfl
@[simp] theorem setI_haltReason (w : Word) : (s.setI w).haltReason = s.haltReason := rfl
@[simp] theorem setI_faultWord (w : Word) : (s.setI w).faultWord = s.faultWord := rfl
@[simp] theorem setI_faultWordValid (w : Word) : (s.setI w).faultWordValid = s.faultWordValid := rfl
@[simp] theorem setI_waitX (w : Word) : (s.setI w).waitX = s.waitX := rfl
@[simp] theorem setI_dt (w : Word) : (s.setI w).dt = s.dt := rfl
@[simp] theorem setI_st (w : Word) : (s.setI w).st = s.st := rfl
@[simp] theorem setI_stackDepth (w : Word) : (s.setI w).stackDepth = s.stackDepth := rfl
@[simp] theorem setI_inputAttached (w : Word) : (s.setI w).inputAttached = s.inputAttached := rfl
@[simp] theorem setI_rngCalls (w : Word) : (s.setI w).rngCalls = s.rngCalls := rfl
@[simp] theorem setI_keyDownCalls (w : Word) : (s.setI w).keyDownCalls = s.keyDownCalls := rfl
@[simp] theorem setI_nextKeyCalls (w : Word) : (s.setI w).nextKeyCalls = s.nextKeyCalls := rfl
@[simp] theorem setI_tickDraws (w : Word) : (s.setI w).tickDraws = s.tickDraws := rfl
@[simp] theorem setI_trace (w : Word) : (s.setI w).trace = s.trace := rfl

/-! ### `State.setPc` -/

@[simp] theorem setPc_v (w : Word) : (s.setPc w).v = s.v := rfl
@[simp] theorem setPc_i (w : Word) : (s.setPc w).i = s.i := rfl
@[simp] theorem setPc_pc (w : Word) : (s.setPc w).pc = w := rfl
@[simp] theorem setPc_stack (w : Word) : (s.setPc w).stack = s.stack := rfl
@[simp] theorem setPc_fb (w : Word) : (s.setPc w).fb = s.fb := rfl
@[simp] theorem setPc_mem (w : Word) : (s.setPc w).mem = s.mem := rfl
@[simp] theorem setPc_runState (w : Word) : (s.setPc w).runState = s.runState := rfl
@[simp] theorem setPc_haltReason (w : Word) : (s.setPc w).haltReason = s.haltReason := rfl
@[simp] theorem setPc_faultWord (w : Word) : (s.setPc w).faultWord = s.faultWord := rfl
@[simp] theorem setPc_faultWordValid (w : Word) : (s.setPc w).faultWordValid = s.faultWordValid := rfl
@[simp] theorem setPc_waitX (w : Word) : (s.setPc w).waitX = s.waitX := rfl
@[simp] theorem setPc_dt (w : Word) : (s.setPc w).dt = s.dt := rfl
@[simp] theorem setPc_st (w : Word) : (s.setPc w).st = s.st := rfl
@[simp] theorem setPc_stackDepth (w : Word) : (s.setPc w).stackDepth = s.stackDepth := rfl
@[simp] theorem setPc_inputAttached (w : Word) : (s.setPc w).inputAttached = s.inputAttached := rfl
@[simp] theorem setPc_rngCalls (w : Word) : (s.setPc w).rngCalls = s.rngCalls := rfl
@[simp] theorem setPc_keyDownCalls (w : Word) : (s.setPc w).keyDownCalls = s.keyDownCalls := rfl
@[simp] theorem setPc_nextKeyCalls (w : Word) : (s.setPc w).nextKeyCalls = s.nextKeyCalls := rfl
@[simp] theorem setPc_tickDraws (w : Word) : (s.setPc w).tickDraws = s.tickDraws := rfl
@[simp] theorem setPc_trace (w : Word) : (s.setPc w).trace = s.trace := rfl

/-! ### `State.setFb` -/

@[simp] theorem setFb_v (fb : Framebuffer) : (s.setFb fb).v = s.v := rfl
@[simp] theorem setFb_i (fb : Framebuffer) : (s.setFb fb).i = s.i := rfl
@[simp] theorem setFb_pc (fb : Framebuffer) : (s.setFb fb).pc = s.pc := rfl
@[simp] theorem setFb_stack (fb : Framebuffer) : (s.setFb fb).stack = s.stack := rfl
@[simp] theorem setFb_fb (fb : Framebuffer) : (s.setFb fb).fb = fb := rfl
@[simp] theorem setFb_mem (fb : Framebuffer) : (s.setFb fb).mem = s.mem := rfl
@[simp] theorem setFb_runState (fb : Framebuffer) : (s.setFb fb).runState = s.runState := rfl
@[simp] theorem setFb_haltReason (fb : Framebuffer) : (s.setFb fb).haltReason = s.haltReason := rfl
@[simp] theorem setFb_faultWord (fb : Framebuffer) : (s.setFb fb).faultWord = s.faultWord := rfl
@[simp] theorem setFb_faultWordValid (fb : Framebuffer) : (s.setFb fb).faultWordValid = s.faultWordValid := rfl
@[simp] theorem setFb_waitX (fb : Framebuffer) : (s.setFb fb).waitX = s.waitX := rfl
@[simp] theorem setFb_dt (fb : Framebuffer) : (s.setFb fb).dt = s.dt := rfl
@[simp] theorem setFb_st (fb : Framebuffer) : (s.setFb fb).st = s.st := rfl
@[simp] theorem setFb_stackDepth (fb : Framebuffer) : (s.setFb fb).stackDepth = s.stackDepth := rfl
@[simp] theorem setFb_inputAttached (fb : Framebuffer) : (s.setFb fb).inputAttached = s.inputAttached := rfl
@[simp] theorem setFb_rngCalls (fb : Framebuffer) : (s.setFb fb).rngCalls = s.rngCalls := rfl
@[simp] theorem setFb_keyDownCalls (fb : Framebuffer) : (s.setFb fb).keyDownCalls = s.keyDownCalls := rfl
@[simp] theorem setFb_nextKeyCalls (fb : Framebuffer) : (s.setFb fb).nextKeyCalls = s.nextKeyCalls := rfl
@[simp] theorem setFb_tickDraws (fb : Framebuffer) : (s.setFb fb).tickDraws = s.tickDraws := rfl
@[simp] theorem setFb_trace (fb : Framebuffer) : (s.setFb fb).trace = s.trace := rfl

/-! ### `State.setMem` -/

@[simp] theorem setMem_v (m : Memory) : (s.setMem m).v = s.v := rfl
@[simp] theorem setMem_i (m : Memory) : (s.setMem m).i = s.i := rfl
@[simp] theorem setMem_pc (m : Memory) : (s.setMem m).pc = s.pc := rfl
@[simp] theorem setMem_stack (m : Memory) : (s.setMem m).stack = s.stack := rfl
@[simp] theorem setMem_fb (m : Memory) : (s.setMem m).fb = s.fb := rfl
@[simp] theorem setMem_mem (m : Memory) : (s.setMem m).mem = m := rfl
@[simp] theorem setMem_runState (m : Memory) : (s.setMem m).runState = s.runState := rfl
@[simp] theorem setMem_haltReason (m : Memory) : (s.setMem m).haltReason = s.haltReason := rfl
@[simp] theorem setMem_faultWord (m : Memory) : (s.setMem m).faultWord = s.faultWord := rfl
@[simp] theorem setMem_faultWordValid (m : Memory) : (s.setMem m).faultWordValid = s.faultWordValid := rfl
@[simp] theorem setMem_waitX (m : Memory) : (s.setMem m).waitX = s.waitX := rfl
@[simp] theorem setMem_dt (m : Memory) : (s.setMem m).dt = s.dt := rfl
@[simp] theorem setMem_st (m : Memory) : (s.setMem m).st = s.st := rfl
@[simp] theorem setMem_stackDepth (m : Memory) : (s.setMem m).stackDepth = s.stackDepth := rfl
@[simp] theorem setMem_inputAttached (m : Memory) : (s.setMem m).inputAttached = s.inputAttached := rfl
@[simp] theorem setMem_rngCalls (m : Memory) : (s.setMem m).rngCalls = s.rngCalls := rfl
@[simp] theorem setMem_keyDownCalls (m : Memory) : (s.setMem m).keyDownCalls = s.keyDownCalls := rfl
@[simp] theorem setMem_nextKeyCalls (m : Memory) : (s.setMem m).nextKeyCalls = s.nextKeyCalls := rfl
@[simp] theorem setMem_tickDraws (m : Memory) : (s.setMem m).tickDraws = s.tickDraws := rfl
@[simp] theorem setMem_trace (m : Memory) : (s.setMem m).trace = s.trace := rfl

/-! ### `State.setStack` -/

@[simp] theorem setStack_v (k : List Word) : (s.setStack k).v = s.v := rfl
@[simp] theorem setStack_i (k : List Word) : (s.setStack k).i = s.i := rfl
@[simp] theorem setStack_pc (k : List Word) : (s.setStack k).pc = s.pc := rfl
@[simp] theorem setStack_stack (k : List Word) : (s.setStack k).stack = k := rfl
@[simp] theorem setStack_fb (k : List Word) : (s.setStack k).fb = s.fb := rfl
@[simp] theorem setStack_mem (k : List Word) : (s.setStack k).mem = s.mem := rfl
@[simp] theorem setStack_runState (k : List Word) : (s.setStack k).runState = s.runState := rfl
@[simp] theorem setStack_haltReason (k : List Word) : (s.setStack k).haltReason = s.haltReason := rfl
@[simp] theorem setStack_faultWord (k : List Word) : (s.setStack k).faultWord = s.faultWord := rfl
@[simp] theorem setStack_faultWordValid (k : List Word) : (s.setStack k).faultWordValid = s.faultWordValid := rfl
@[simp] theorem setStack_waitX (k : List Word) : (s.setStack k).waitX = s.waitX := rfl
@[simp] theorem setStack_dt (k : List Word) : (s.setStack k).dt = s.dt := rfl
@[simp] theorem setStack_st (k : List Word) : (s.setStack k).st = s.st := rfl
@[simp] theorem setStack_stackDepth (k : List Word) : (s.setStack k).stackDepth = s.stackDepth := rfl
@[simp] theorem setStack_inputAttached (k : List Word) : (s.setStack k).inputAttached = s.inputAttached := rfl
@[simp] theorem setStack_rngCalls (k : List Word) : (s.setStack k).rngCalls = s.rngCalls := rfl
@[simp] theorem setStack_keyDownCalls (k : List Word) : (s.setStack k).keyDownCalls = s.keyDownCalls := rfl
@[simp] theorem setStack_nextKeyCalls (k : List Word) : (s.setStack k).nextKeyCalls = s.nextKeyCalls := rfl
@[simp] theorem setStack_tickDraws (k : List Word) : (s.setStack k).tickDraws = s.tickDraws := rfl
@[simp] theorem setStack_trace (k : List Word) : (s.setStack k).trace = s.trace := rfl

/-! ### `State.advance` -/

@[simp] theorem advance_v : s.advance.v = s.v := rfl
@[simp] theorem advance_i : s.advance.i = s.i := rfl
@[simp] theorem advance_pc : s.advance.pc = s.pc + 2#16 := rfl
@[simp] theorem advance_stack : s.advance.stack = s.stack := rfl
@[simp] theorem advance_fb : s.advance.fb = s.fb := rfl
@[simp] theorem advance_mem : s.advance.mem = s.mem := rfl
@[simp] theorem advance_runState : s.advance.runState = s.runState := rfl
@[simp] theorem advance_haltReason : s.advance.haltReason = s.haltReason := rfl
@[simp] theorem advance_faultWord : s.advance.faultWord = s.faultWord := rfl
@[simp] theorem advance_faultWordValid : s.advance.faultWordValid = s.faultWordValid := rfl
@[simp] theorem advance_waitX : s.advance.waitX = s.waitX := rfl
@[simp] theorem advance_dt : s.advance.dt = s.dt := rfl
@[simp] theorem advance_st : s.advance.st = s.st := rfl
@[simp] theorem advance_stackDepth : s.advance.stackDepth = s.stackDepth := rfl
@[simp] theorem advance_inputAttached : s.advance.inputAttached = s.inputAttached := rfl
@[simp] theorem advance_rngCalls : s.advance.rngCalls = s.rngCalls := rfl
@[simp] theorem advance_keyDownCalls : s.advance.keyDownCalls = s.keyDownCalls := rfl
@[simp] theorem advance_nextKeyCalls : s.advance.nextKeyCalls = s.nextKeyCalls := rfl
@[simp] theorem advance_tickDraws : s.advance.tickDraws = s.tickDraws := rfl
@[simp] theorem advance_trace : s.advance.trace = s.trace := rfl

/-! ### `State.skipIf` -/

@[simp] theorem skipIf_v (c : Bool) : (s.skipIf c).v = s.v := rfl
@[simp] theorem skipIf_i (c : Bool) : (s.skipIf c).i = s.i := rfl
@[simp] theorem skipIf_pc (c : Bool) : (s.skipIf c).pc = if c then s.pc + 4#16 else s.pc + 2#16 := rfl
@[simp] theorem skipIf_stack (c : Bool) : (s.skipIf c).stack = s.stack := rfl
@[simp] theorem skipIf_fb (c : Bool) : (s.skipIf c).fb = s.fb := rfl
@[simp] theorem skipIf_mem (c : Bool) : (s.skipIf c).mem = s.mem := rfl
@[simp] theorem skipIf_runState (c : Bool) : (s.skipIf c).runState = s.runState := rfl
@[simp] theorem skipIf_haltReason (c : Bool) : (s.skipIf c).haltReason = s.haltReason := rfl
@[simp] theorem skipIf_faultWord (c : Bool) : (s.skipIf c).faultWord = s.faultWord := rfl
@[simp] theorem skipIf_faultWordValid (c : Bool) : (s.skipIf c).faultWordValid = s.faultWordValid := rfl
@[simp] theorem skipIf_waitX (c : Bool) : (s.skipIf c).waitX = s.waitX := rfl
@[simp] theorem skipIf_dt (c : Bool) : (s.skipIf c).dt = s.dt := rfl
@[simp] theorem skipIf_st (c : Bool) : (s.skipIf c).st = s.st := rfl
@[simp] theorem skipIf_stackDepth (c : Bool) : (s.skipIf c).stackDepth = s.stackDepth := rfl
@[simp] theorem skipIf_inputAttached (c : Bool) : (s.skipIf c).inputAttached = s.inputAttached := rfl
@[simp] theorem skipIf_rngCalls (c : Bool) : (s.skipIf c).rngCalls = s.rngCalls := rfl
@[simp] theorem skipIf_keyDownCalls (c : Bool) : (s.skipIf c).keyDownCalls = s.keyDownCalls := rfl
@[simp] theorem skipIf_nextKeyCalls (c : Bool) : (s.skipIf c).nextKeyCalls = s.nextKeyCalls := rfl
@[simp] theorem skipIf_tickDraws (c : Bool) : (s.skipIf c).tickDraws = s.tickDraws := rfl
@[simp] theorem skipIf_trace (c : Bool) : (s.skipIf c).trace = s.trace := rfl

/-! ### `raiseHalt` -/

@[simp] theorem raiseHalt_v (r : HaltReason) (w : Option Word) : (raiseHalt r w s).v = s.v := rfl
@[simp] theorem raiseHalt_i (r : HaltReason) (w : Option Word) : (raiseHalt r w s).i = s.i := rfl
@[simp] theorem raiseHalt_pc (r : HaltReason) (w : Option Word) : (raiseHalt r w s).pc = s.pc := rfl
@[simp] theorem raiseHalt_stack (r : HaltReason) (w : Option Word) : (raiseHalt r w s).stack = s.stack := rfl
@[simp] theorem raiseHalt_fb (r : HaltReason) (w : Option Word) : (raiseHalt r w s).fb = s.fb := rfl
@[simp] theorem raiseHalt_mem (r : HaltReason) (w : Option Word) : (raiseHalt r w s).mem = s.mem := rfl
@[simp] theorem raiseHalt_runState (r : HaltReason) (w : Option Word) : (raiseHalt r w s).runState = .halted := rfl
@[simp] theorem raiseHalt_haltReason (r : HaltReason) (w : Option Word) : (raiseHalt r w s).haltReason = r := rfl
@[simp] theorem raiseHalt_faultWord (r : HaltReason) (w : Option Word) : (raiseHalt r w s).faultWord = w.getD 0x0000#16 := rfl
@[simp] theorem raiseHalt_faultWordValid (r : HaltReason) (w : Option Word) : (raiseHalt r w s).faultWordValid = w.isSome := rfl
@[simp] theorem raiseHalt_waitX (r : HaltReason) (w : Option Word) : (raiseHalt r w s).waitX = s.waitX := rfl
@[simp] theorem raiseHalt_dt (r : HaltReason) (w : Option Word) : (raiseHalt r w s).dt = s.dt := rfl
@[simp] theorem raiseHalt_st (r : HaltReason) (w : Option Word) : (raiseHalt r w s).st = s.st := rfl
@[simp] theorem raiseHalt_stackDepth (r : HaltReason) (w : Option Word) : (raiseHalt r w s).stackDepth = s.stackDepth := rfl
@[simp] theorem raiseHalt_inputAttached (r : HaltReason) (w : Option Word) : (raiseHalt r w s).inputAttached = s.inputAttached := rfl
@[simp] theorem raiseHalt_rngCalls (r : HaltReason) (w : Option Word) : (raiseHalt r w s).rngCalls = s.rngCalls := rfl
@[simp] theorem raiseHalt_keyDownCalls (r : HaltReason) (w : Option Word) : (raiseHalt r w s).keyDownCalls = s.keyDownCalls := rfl
@[simp] theorem raiseHalt_nextKeyCalls (r : HaltReason) (w : Option Word) : (raiseHalt r w s).nextKeyCalls = s.nextKeyCalls := rfl
@[simp] theorem raiseHalt_tickDraws (r : HaltReason) (w : Option Word) : (raiseHalt r w s).tickDraws = s.tickDraws := rfl
@[simp] theorem raiseHalt_trace (r : HaltReason) (w : Option Word) : (raiseHalt r w s).trace = s.trace := rfl

/-! ### `State.emit` -/

@[simp] theorem emit_v (e : Event) : (s.emit e).v = s.v := rfl
@[simp] theorem emit_i (e : Event) : (s.emit e).i = s.i := rfl
@[simp] theorem emit_pc (e : Event) : (s.emit e).pc = s.pc := rfl
@[simp] theorem emit_stack (e : Event) : (s.emit e).stack = s.stack := rfl
@[simp] theorem emit_fb (e : Event) : (s.emit e).fb = s.fb := rfl
@[simp] theorem emit_mem (e : Event) : (s.emit e).mem = s.mem := rfl
@[simp] theorem emit_runState (e : Event) : (s.emit e).runState = s.runState := rfl
@[simp] theorem emit_haltReason (e : Event) : (s.emit e).haltReason = s.haltReason := rfl
@[simp] theorem emit_faultWord (e : Event) : (s.emit e).faultWord = s.faultWord := rfl
@[simp] theorem emit_faultWordValid (e : Event) : (s.emit e).faultWordValid = s.faultWordValid := rfl
@[simp] theorem emit_waitX (e : Event) : (s.emit e).waitX = s.waitX := rfl
@[simp] theorem emit_dt (e : Event) : (s.emit e).dt = s.dt := rfl
@[simp] theorem emit_st (e : Event) : (s.emit e).st = s.st := rfl
@[simp] theorem emit_stackDepth (e : Event) : (s.emit e).stackDepth = s.stackDepth := rfl
@[simp] theorem emit_inputAttached (e : Event) : (s.emit e).inputAttached = s.inputAttached := rfl
@[simp] theorem emit_rngCalls (e : Event) : (s.emit e).rngCalls = s.rngCalls := rfl
@[simp] theorem emit_keyDownCalls (e : Event) : (s.emit e).keyDownCalls = s.keyDownCalls := rfl
@[simp] theorem emit_nextKeyCalls (e : Event) : (s.emit e).nextKeyCalls = s.nextKeyCalls := rfl
@[simp] theorem emit_tickDraws (e : Event) : (s.emit e).tickDraws = s.tickDraws := rfl
@[simp] theorem emit_trace (e : Event) : (s.emit e).trace = s.trace ++ [e] := rfl

/-! ### `State.beginWait` -/

@[simp] theorem beginWait_v (x : Reg) : (s.beginWait x).v = s.v := rfl
@[simp] theorem beginWait_i (x : Reg) : (s.beginWait x).i = s.i := rfl
@[simp] theorem beginWait_pc (x : Reg) : (s.beginWait x).pc = s.pc := rfl
@[simp] theorem beginWait_stack (x : Reg) : (s.beginWait x).stack = s.stack := rfl
@[simp] theorem beginWait_fb (x : Reg) : (s.beginWait x).fb = s.fb := rfl
@[simp] theorem beginWait_mem (x : Reg) : (s.beginWait x).mem = s.mem := rfl
@[simp] theorem beginWait_runState (x : Reg) : (s.beginWait x).runState = .awaitKey := rfl
@[simp] theorem beginWait_haltReason (x : Reg) : (s.beginWait x).haltReason = s.haltReason := rfl
@[simp] theorem beginWait_faultWord (x : Reg) : (s.beginWait x).faultWord = s.faultWord := rfl
@[simp] theorem beginWait_faultWordValid (x : Reg) : (s.beginWait x).faultWordValid = s.faultWordValid := rfl
@[simp] theorem beginWait_waitX (x : Reg) : (s.beginWait x).waitX = x := rfl
@[simp] theorem beginWait_dt (x : Reg) : (s.beginWait x).dt = s.dt := rfl
@[simp] theorem beginWait_st (x : Reg) : (s.beginWait x).st = s.st := rfl
@[simp] theorem beginWait_stackDepth (x : Reg) : (s.beginWait x).stackDepth = s.stackDepth := rfl
@[simp] theorem beginWait_inputAttached (x : Reg) : (s.beginWait x).inputAttached = s.inputAttached := rfl
@[simp] theorem beginWait_rngCalls (x : Reg) : (s.beginWait x).rngCalls = s.rngCalls := rfl
@[simp] theorem beginWait_keyDownCalls (x : Reg) : (s.beginWait x).keyDownCalls = s.keyDownCalls := rfl
@[simp] theorem beginWait_nextKeyCalls (x : Reg) : (s.beginWait x).nextKeyCalls = s.nextKeyCalls := rfl
@[simp] theorem beginWait_tickDraws (x : Reg) : (s.beginWait x).tickDraws = s.tickDraws := rfl
@[simp] theorem beginWait_trace (x : Reg) : (s.beginWait x).trace = s.trace := rfl

/-! ### `State.resume` -/

@[simp] theorem resume_v : s.resume.v = s.v := rfl
@[simp] theorem resume_i : s.resume.i = s.i := rfl
@[simp] theorem resume_pc : s.resume.pc = s.pc := rfl
@[simp] theorem resume_stack : s.resume.stack = s.stack := rfl
@[simp] theorem resume_fb : s.resume.fb = s.fb := rfl
@[simp] theorem resume_mem : s.resume.mem = s.mem := rfl
@[simp] theorem resume_runState : s.resume.runState = .running := rfl
@[simp] theorem resume_haltReason : s.resume.haltReason = s.haltReason := rfl
@[simp] theorem resume_faultWord : s.resume.faultWord = s.faultWord := rfl
@[simp] theorem resume_faultWordValid : s.resume.faultWordValid = s.faultWordValid := rfl
@[simp] theorem resume_waitX : s.resume.waitX = s.waitX := rfl
@[simp] theorem resume_dt : s.resume.dt = s.dt := rfl
@[simp] theorem resume_st : s.resume.st = s.st := rfl
@[simp] theorem resume_stackDepth : s.resume.stackDepth = s.stackDepth := rfl
@[simp] theorem resume_inputAttached : s.resume.inputAttached = s.inputAttached := rfl
@[simp] theorem resume_rngCalls : s.resume.rngCalls = s.rngCalls := rfl
@[simp] theorem resume_keyDownCalls : s.resume.keyDownCalls = s.keyDownCalls := rfl
@[simp] theorem resume_nextKeyCalls : s.resume.nextKeyCalls = s.nextKeyCalls := rfl
@[simp] theorem resume_tickDraws : s.resume.tickDraws = s.tickDraws := rfl
@[simp] theorem resume_trace : s.resume.trace = s.trace := rfl

/-! ### `elapse` -/

@[simp] theorem elapse_v (n : Nat) : (elapse n s).v = s.v := rfl
@[simp] theorem elapse_i (n : Nat) : (elapse n s).i = s.i := rfl
@[simp] theorem elapse_pc (n : Nat) : (elapse n s).pc = s.pc := rfl
@[simp] theorem elapse_stack (n : Nat) : (elapse n s).stack = s.stack := rfl
@[simp] theorem elapse_fb (n : Nat) : (elapse n s).fb = s.fb := rfl
@[simp] theorem elapse_mem (n : Nat) : (elapse n s).mem = s.mem := rfl
@[simp] theorem elapse_runState (n : Nat) : (elapse n s).runState = s.runState := rfl
@[simp] theorem elapse_haltReason (n : Nat) : (elapse n s).haltReason = s.haltReason := rfl
@[simp] theorem elapse_faultWord (n : Nat) : (elapse n s).faultWord = s.faultWord := rfl
@[simp] theorem elapse_faultWordValid (n : Nat) : (elapse n s).faultWordValid = s.faultWordValid := rfl
@[simp] theorem elapse_waitX (n : Nat) : (elapse n s).waitX = s.waitX := rfl
@[simp] theorem elapse_dt (n : Nat) : (elapse n s).dt = countDownBy n s.dt := rfl
@[simp] theorem elapse_st (n : Nat) : (elapse n s).st = countDownBy n s.st := rfl
@[simp] theorem elapse_stackDepth (n : Nat) : (elapse n s).stackDepth = s.stackDepth := rfl
@[simp] theorem elapse_inputAttached (n : Nat) : (elapse n s).inputAttached = s.inputAttached := rfl
@[simp] theorem elapse_rngCalls (n : Nat) : (elapse n s).rngCalls = s.rngCalls := rfl
@[simp] theorem elapse_keyDownCalls (n : Nat) : (elapse n s).keyDownCalls = s.keyDownCalls := rfl
@[simp] theorem elapse_nextKeyCalls (n : Nat) : (elapse n s).nextKeyCalls = s.nextKeyCalls := rfl
@[simp] theorem elapse_tickDraws (n : Nat) : (elapse n s).tickDraws = s.tickDraws := rfl
@[simp] theorem elapse_trace (n : Nat) : (elapse n s).trace = s.trace := rfl

/-! ### `betweenSteps` -/

@[simp] theorem betweenSteps_v : (betweenSteps s).v = s.v := rfl
@[simp] theorem betweenSteps_i : (betweenSteps s).i = s.i := rfl
@[simp] theorem betweenSteps_pc : (betweenSteps s).pc = s.pc := rfl
@[simp] theorem betweenSteps_stack : (betweenSteps s).stack = s.stack := rfl
@[simp] theorem betweenSteps_fb : (betweenSteps s).fb = s.fb := rfl
@[simp] theorem betweenSteps_mem : (betweenSteps s).mem = s.mem := rfl
@[simp] theorem betweenSteps_runState : (betweenSteps s).runState = s.runState := rfl
@[simp] theorem betweenSteps_haltReason : (betweenSteps s).haltReason = s.haltReason := rfl
@[simp] theorem betweenSteps_faultWord : (betweenSteps s).faultWord = s.faultWord := rfl
@[simp] theorem betweenSteps_faultWordValid : (betweenSteps s).faultWordValid = s.faultWordValid := rfl
@[simp] theorem betweenSteps_waitX : (betweenSteps s).waitX = s.waitX := rfl
@[simp] theorem betweenSteps_dt : (betweenSteps s).dt = countDownBy (Config.ticks s.tickDraws) s.dt := rfl
@[simp] theorem betweenSteps_st : (betweenSteps s).st = countDownBy (Config.ticks s.tickDraws) s.st := rfl
@[simp] theorem betweenSteps_stackDepth : (betweenSteps s).stackDepth = s.stackDepth := rfl
@[simp] theorem betweenSteps_inputAttached : (betweenSteps s).inputAttached = s.inputAttached := rfl
@[simp] theorem betweenSteps_rngCalls : (betweenSteps s).rngCalls = s.rngCalls := rfl
@[simp] theorem betweenSteps_keyDownCalls : (betweenSteps s).keyDownCalls = s.keyDownCalls := rfl
@[simp] theorem betweenSteps_nextKeyCalls : (betweenSteps s).nextKeyCalls = s.nextKeyCalls := rfl
@[simp] theorem betweenSteps_tickDraws : (betweenSteps s).tickDraws = s.tickDraws + 1 := rfl
@[simp] theorem betweenSteps_trace : (betweenSteps s).trace = s.trace := rfl

/-! ### `tick` -/

@[simp] theorem tick_v : (tick s).v = s.v := rfl
@[simp] theorem tick_i : (tick s).i = s.i := rfl
@[simp] theorem tick_pc : (tick s).pc = s.pc := rfl
@[simp] theorem tick_stack : (tick s).stack = s.stack := rfl
@[simp] theorem tick_fb : (tick s).fb = s.fb := rfl
@[simp] theorem tick_mem : (tick s).mem = s.mem := rfl
@[simp] theorem tick_runState : (tick s).runState = s.runState := rfl
@[simp] theorem tick_haltReason : (tick s).haltReason = s.haltReason := rfl
@[simp] theorem tick_faultWord : (tick s).faultWord = s.faultWord := rfl
@[simp] theorem tick_faultWordValid : (tick s).faultWordValid = s.faultWordValid := rfl
@[simp] theorem tick_waitX : (tick s).waitX = s.waitX := rfl
@[simp] theorem tick_dt : (tick s).dt = countDown s.dt := rfl
@[simp] theorem tick_st : (tick s).st = countDown s.st := rfl
@[simp] theorem tick_stackDepth : (tick s).stackDepth = s.stackDepth := rfl
@[simp] theorem tick_inputAttached : (tick s).inputAttached = s.inputAttached := rfl
@[simp] theorem tick_rngCalls : (tick s).rngCalls = s.rngCalls := rfl
@[simp] theorem tick_keyDownCalls : (tick s).keyDownCalls = s.keyDownCalls := rfl
@[simp] theorem tick_nextKeyCalls : (tick s).nextKeyCalls = s.nextKeyCalls := rfl
@[simp] theorem tick_tickDraws : (tick s).tickDraws = s.tickDraws := rfl
@[simp] theorem tick_trace : (tick s).trace = s.trace := rfl

/-! ### `dtWrite` -/

@[simp] theorem dtWrite_v (b : Byte) : (dtWrite b s).v = s.v := rfl
@[simp] theorem dtWrite_i (b : Byte) : (dtWrite b s).i = s.i := rfl
@[simp] theorem dtWrite_pc (b : Byte) : (dtWrite b s).pc = s.pc := rfl
@[simp] theorem dtWrite_stack (b : Byte) : (dtWrite b s).stack = s.stack := rfl
@[simp] theorem dtWrite_fb (b : Byte) : (dtWrite b s).fb = s.fb := rfl
@[simp] theorem dtWrite_mem (b : Byte) : (dtWrite b s).mem = s.mem := rfl
@[simp] theorem dtWrite_runState (b : Byte) : (dtWrite b s).runState = s.runState := rfl
@[simp] theorem dtWrite_haltReason (b : Byte) : (dtWrite b s).haltReason = s.haltReason := rfl
@[simp] theorem dtWrite_faultWord (b : Byte) : (dtWrite b s).faultWord = s.faultWord := rfl
@[simp] theorem dtWrite_faultWordValid (b : Byte) : (dtWrite b s).faultWordValid = s.faultWordValid := rfl
@[simp] theorem dtWrite_waitX (b : Byte) : (dtWrite b s).waitX = s.waitX := rfl
@[simp] theorem dtWrite_dt (b : Byte) : (dtWrite b s).dt = b := rfl
@[simp] theorem dtWrite_st (b : Byte) : (dtWrite b s).st = s.st := rfl
@[simp] theorem dtWrite_stackDepth (b : Byte) : (dtWrite b s).stackDepth = s.stackDepth := rfl
@[simp] theorem dtWrite_inputAttached (b : Byte) : (dtWrite b s).inputAttached = s.inputAttached := rfl
@[simp] theorem dtWrite_rngCalls (b : Byte) : (dtWrite b s).rngCalls = s.rngCalls := rfl
@[simp] theorem dtWrite_keyDownCalls (b : Byte) : (dtWrite b s).keyDownCalls = s.keyDownCalls := rfl
@[simp] theorem dtWrite_nextKeyCalls (b : Byte) : (dtWrite b s).nextKeyCalls = s.nextKeyCalls := rfl
@[simp] theorem dtWrite_tickDraws (b : Byte) : (dtWrite b s).tickDraws = s.tickDraws := rfl
@[simp] theorem dtWrite_trace (b : Byte) : (dtWrite b s).trace = s.trace := rfl

/-! ### `stWrite` -/

@[simp] theorem stWrite_v (b : Byte) : (stWrite b s).v = s.v := rfl
@[simp] theorem stWrite_i (b : Byte) : (stWrite b s).i = s.i := rfl
@[simp] theorem stWrite_pc (b : Byte) : (stWrite b s).pc = s.pc := rfl
@[simp] theorem stWrite_stack (b : Byte) : (stWrite b s).stack = s.stack := rfl
@[simp] theorem stWrite_fb (b : Byte) : (stWrite b s).fb = s.fb := rfl
@[simp] theorem stWrite_mem (b : Byte) : (stWrite b s).mem = s.mem := rfl
@[simp] theorem stWrite_runState (b : Byte) : (stWrite b s).runState = s.runState := rfl
@[simp] theorem stWrite_haltReason (b : Byte) : (stWrite b s).haltReason = s.haltReason := rfl
@[simp] theorem stWrite_faultWord (b : Byte) : (stWrite b s).faultWord = s.faultWord := rfl
@[simp] theorem stWrite_faultWordValid (b : Byte) : (stWrite b s).faultWordValid = s.faultWordValid := rfl
@[simp] theorem stWrite_waitX (b : Byte) : (stWrite b s).waitX = s.waitX := rfl
@[simp] theorem stWrite_dt (b : Byte) : (stWrite b s).dt = s.dt := rfl
@[simp] theorem stWrite_st (b : Byte) : (stWrite b s).st = b := rfl
@[simp] theorem stWrite_stackDepth (b : Byte) : (stWrite b s).stackDepth = s.stackDepth := rfl
@[simp] theorem stWrite_inputAttached (b : Byte) : (stWrite b s).inputAttached = s.inputAttached := rfl
@[simp] theorem stWrite_rngCalls (b : Byte) : (stWrite b s).rngCalls = s.rngCalls := rfl
@[simp] theorem stWrite_keyDownCalls (b : Byte) : (stWrite b s).keyDownCalls = s.keyDownCalls := rfl
@[simp] theorem stWrite_nextKeyCalls (b : Byte) : (stWrite b s).nextKeyCalls = s.nextKeyCalls := rfl
@[simp] theorem stWrite_tickDraws (b : Byte) : (stWrite b s).tickDraws = s.tickDraws := rfl
@[simp] theorem stWrite_trace (b : Byte) : (stWrite b s).trace = s.trace := rfl

end Updates

end Sys2Proof.Machine
end

