-- ==== Sys2Proof/Laws/Framebuffer.lean ====
section
/-! SUPPORT. Pixels: what a toggle, a clear and a sprite draw do to each of them. -/

namespace Sys2Proof.Machine

/-- A toggle flips its own pixel and leaves every other (R118). -/
theorem pixel_toggle (fb : Framebuffer) (x y px py : Nat) (hx : x < 64) (hy : y < 32) :
    (fb.toggle x y).pixel px py = (fb.pixel px py ^^ (decide (px = x) && decide (py = y))) := by
  unfold Framebuffer.toggle Framebuffer.pixel
  rw [dif_pos hy]
  by_cases h : py < 32
  · rw [dif_pos h, dif_pos h, Vector.getElem_set]
    by_cases h1 : y = py
    · subst h1
      rw [if_pos rfl, BitVec.getLsbD_xor, BitVec.getLsbD_twoPow]
      by_cases h2 : px = x
      · subst h2; simp [hx]
      · simp [h2, Ne.symm h2]
    · simp [h1, Ne.symm h1]
  · have : py ≠ y := by omega
    simp [h, this]

/-- `Clear()` sets every pixel to 0 (R117). -/
@[simp] theorem pixel_clear (px py : Nat) : Framebuffer.clear.pixel px py = false := by
  unfold Framebuffer.clear Framebuffer.pixel
  split <;> simp

/-! ## One sprite row -/

/-- Whether one of the positions `ws` of the sprite row `b` is a 1 bit on column `px`. -/
def rowHits (b : Byte) (x0 px : Nat) (ws : List Nat) : Bool :=
  ws.any fun w => b.getLsbD (7 - w) && decide (px = (x0 + w) % 64)

theorem rowHits_cons (b : Byte) (x0 px w : Nat) (ws : List Nat) :
    rowHits b x0 px (w :: ws) =
      (b.getLsbD (7 - w) && decide (px = (x0 + w) % 64) || rowHits b x0 px ws) := rfl

/-- Distinct positions of a row fall on distinct columns (R119). -/
theorem column_injective {x0 w w' : Nat} (h : w < 8) (h' : w' < 8)
    (he : (x0 + w) % 64 = (x0 + w') % 64) : w = w' := by omega

theorem drawBits_spec (b : Byte) (x0 py : Nat) (hy : py < 32) (ws : List Nat) (hn : ws.Nodup)
    (h8 : ∀ w ∈ ws, w < 8) (c : Canvas) :
    (∀ px qy, (Canvas.drawBits b x0 py ws c).fb.pixel px qy =
      (c.fb.pixel px qy ^^ (rowHits b x0 px ws && decide (qy = py)))) ∧
    (Canvas.drawBits b x0 py ws c).collided =
      (c.collided || ws.any fun w => b.getLsbD (7 - w) && c.fb.pixel ((x0 + w) % 64) py) := by
  induction ws generalizing c with
  | nil => simp [Canvas.drawBits, rowHits]
  | cons w ws ih =>
    obtain ⟨hw, hn⟩ := List.nodup_cons.mp hn
    have hw8 : w < 8 := h8 w (by simp)
    have h8' : ∀ v ∈ ws, v < 8 := fun v hv => h8 v (by simp [hv])
    have hne : ∀ v ∈ ws, (x0 + v) % 64 ≠ (x0 + w) % 64 := fun v hv he =>
      hw (column_injective (h8' v hv) hw8 he ▸ hv)
    rw [Canvas.drawBits]
    by_cases hb : b.getLsbD (7 - w) = true
    · rw [if_pos hb]
      obtain ⟨hp, hc⟩ := ih hn h8' (c.plot ((x0 + w) % fbWidth) py)
      have hpix : ∀ px qy, (c.plot ((x0 + w) % fbWidth) py).fb.pixel px qy =
          (c.fb.pixel px qy ^^ (decide (px = (x0 + w) % 64) && decide (qy = py))) := fun px qy =>
        pixel_toggle c.fb _ py px qy (Nat.mod_lt _ (by decide)) hy
      refine ⟨fun px qy => ?_, ?_⟩
      · rw [hp, hpix]
        by_cases hx : px = (x0 + w) % 64
        · have : rowHits b x0 px ws = false := by
            simp only [rowHits, List.any_eq_false, Bool.and_eq_true, decide_eq_true_eq, not_and]
            intro v hv _ he
            exact hne v hv (he.symm.trans hx)
          rw [rowHits_cons, this]; simp [hb, hx]
        · simp [rowHits_cons, hx]
      · rw [hc]
        have : (ws.any fun v => b.getLsbD (7 - v) &&
              (c.plot ((x0 + w) % fbWidth) py).fb.pixel ((x0 + v) % 64) py) =
            ws.any fun v => b.getLsbD (7 - v) && c.fb.pixel ((x0 + v) % 64) py := by
          rw [Bool.eq_iff_iff, List.any_eq_true, List.any_eq_true]
          refine exists_congr fun v => and_congr_right fun hv => ?_
          rw [hpix]
          simp [hne v hv]
        rw [this]
        simp [Canvas.plot, hb, fbWidth, Bool.or_assoc]
    · rw [if_neg hb]
      obtain ⟨hp, hc⟩ := ih hn h8' c
      refine ⟨fun px qy => ?_, ?_⟩
      · rw [hp]; simp [rowHits_cons, hb]
      · rw [hc]; simp [hb]

/-- The eight positions of a sprite row. -/
theorem drawRow_spec (b : Byte) (x0 py : Nat) (hy : py < 32) (c : Canvas) :
    (∀ px qy, (Canvas.drawRow b x0 py c).fb.pixel px qy =
      (c.fb.pixel px qy ^^ (rowHits b x0 px (List.range 8) && decide (qy = py)))) ∧
    (Canvas.drawRow b x0 py c).collided =
      (c.collided || (List.range 8).any fun w => b.getLsbD (7 - w) && c.fb.pixel ((x0 + w) % 64) py) :=
  drawBits_spec b x0 py hy (List.range 8) (by decide) (by decide) c

theorem rowHits_iff (b : Byte) (x0 px : Nat) :
    rowHits b x0 px (List.range 8) = true ↔
      ∃ w, w < 8 ∧ b.getLsbD (7 - w) = true ∧ px = (x0 + w) % 64 := by
  simp [rowHits]

/-! ## The whole sprite -/

theorem spriteCovers_nil (x0 y px py : Nat) : ¬ SpriteCovers x0 y [] px py := by
  rintro ⟨r, w, hr, -⟩
  simp at hr

/-- A sprite covers a pixel with its first row or with the rest of its rows. -/
theorem spriteCovers_cons (x0 y : Nat) (b : Byte) (rows : List Byte) (px py : Nat) :
    SpriteCovers x0 y (b :: rows) px py ↔
      (rowHits b x0 px (List.range 8) = true ∧ py = y % 32) ∨ SpriteCovers x0 (y + 1) rows px py := by
  rw [rowHits_iff]
  constructor
  · rintro ⟨r, w, hr, hw, hb, hx, hy⟩
    cases r with
    | zero => exact .inl ⟨⟨w, hw, by simpa using hb, hx⟩, by simpa using hy⟩
    | succ r =>
      refine .inr ⟨r, w, by simpa using hr, hw, by simpa using hb, hx, ?_⟩
      rw [hy]; congr 1; omega
  · rintro (⟨⟨w, hw, hb, hx⟩, hy⟩ | ⟨r, w, hr, hw, hb, hx, hy⟩)
    · exact ⟨0, w, by simp, hw, by simpa using hb, hx, by simpa using hy⟩
    · refine ⟨r + 1, w, by simpa using hr, hw, by simpa using hb, hx, ?_⟩
      rw [hy]; congr 1; omega

/-- Distinct rows of a sprite of at most 32 rows fall on distinct rows of the grid (R119). -/
theorem not_covers_first_row {x0 y px : Nat} {rows : List Byte} (h : rows.length < 32) :
    ¬ SpriteCovers x0 (y + 1) rows px (y % 32) := by
  rintro ⟨r, w, hr, -, -, -, hy⟩
  omega

theorem drawRows_spec (x0 y : Nat) (rows : List Byte) (hl : rows.length ≤ 32) (c : Canvas) :
    (∀ px py, SpriteCovers x0 y rows px py →
      (Canvas.drawRows x0 y rows c).fb.pixel px py = !c.fb.pixel px py) ∧
    (∀ px py, ¬ SpriteCovers x0 y rows px py →
      (Canvas.drawRows x0 y rows c).fb.pixel px py = c.fb.pixel px py) ∧
    ((Canvas.drawRows x0 y rows c).collided = true ↔
      c.collided = true ∨ ∃ px py, SpriteCovers x0 y rows px py ∧ c.fb.pixel px py = true) := by
  induction rows generalizing y c with
  | nil =>
    refine ⟨fun px py h => absurd h (spriteCovers_nil x0 y px py), fun _ _ _ => rfl, ?_⟩
    constructor
    · exact .inl
    · rintro (h | ⟨px, py, h, -⟩)
      · exact h
      · exact absurd h (spriteCovers_nil x0 y px py)
  | cons b rows ih =>
    simp only [List.length_cons] at hl
    obtain ⟨hp, hc⟩ := drawRow_spec b x0 (y % 32) (Nat.mod_lt _ (by decide)) c
    obtain ⟨h1, h2, h3⟩ := ih (y + 1) (by omega) (Canvas.drawRow b x0 (y % fbHeight) c)
    simp only [Canvas.drawRows]
    have hfirst : ∀ px, ¬ SpriteCovers x0 (y + 1) rows px (y % 32) := fun px =>
      not_covers_first_row (by omega)
    refine ⟨fun px py h => ?_, fun px py h => ?_, ?_⟩
    · rcases (spriteCovers_cons x0 y b rows px py).mp h with ⟨hr, rfl⟩ | hr
      · rw [h2 _ _ (hfirst px)]
        exact (hp px _).trans (by simp [hr])
      · rw [h1 _ _ hr]
        have : py ≠ y % 32 := fun he => hfirst px (he ▸ hr)
        exact congrArg _ ((hp px py).trans (by simp [this]))
    · rw [spriteCovers_cons, not_or, not_and] at h
      rw [h2 _ _ h.2]
      refine (hp px py).trans ?_
      by_cases hy : py = y % 32
      · have : rowHits b x0 px (List.range 8) = false := by
          by_contra hne
          exact h.1 (by simpa using hne) hy
        simp [this]
      · simp [hy]
    · rw [h3]
      have hcol : (Canvas.drawRow b x0 (y % fbHeight) c).collided = true ↔ c.collided = true ∨
          ∃ px, rowHits b x0 px (List.range 8) = true ∧ c.fb.pixel px (y % 32) = true := by
        refine (Bool.eq_iff_iff.mp hc).trans ?_
        simp only [Bool.or_eq_true, List.any_eq_true, List.mem_range, Bool.and_eq_true, rowHits_iff]
        refine or_congr_right ⟨?_, ?_⟩
        · rintro ⟨w, hw, hb, hq⟩; exact ⟨_, ⟨w, hw, hb, rfl⟩, hq⟩
        · rintro ⟨_, ⟨w, hw, hb, rfl⟩, hq⟩; exact ⟨w, hw, hb, hq⟩
      have hrest : ∀ px py, SpriteCovers x0 (y + 1) rows px py →
          ((Canvas.drawRow b x0 (y % fbHeight) c).fb.pixel px py = true ↔ c.fb.pixel px py = true) := by
        intro px py hr
        have : py ≠ y % 32 := fun he => hfirst px (he ▸ hr)
        exact Bool.eq_iff_iff.mp ((hp px py).trans (by simp [this]))
      rw [hcol]
      constructor
      · rintro ((h | ⟨px, h, hq⟩) | ⟨px, py, h, hq⟩)
        · exact .inl h
        · exact .inr ⟨px, _, (spriteCovers_cons ..).mpr (.inl ⟨h, rfl⟩), hq⟩
        · exact .inr ⟨px, py, (spriteCovers_cons ..).mpr (.inr h), (hrest px py h).mp hq⟩
      · rintro (h | ⟨px, py, h, hq⟩)
        · exact .inl (.inl h)
        · rcases (spriteCovers_cons ..).mp h with ⟨hr, rfl⟩ | hr
          · exact .inl (.inr ⟨px, hr, hq⟩)
          · exact .inr ⟨px, py, hr, (hrest px py hr).mpr hq⟩

/-- What `DrawSprite` does (R118, R119): it flips the pixels under the sprite's 1 bits and no other,
and reports a collision exactly when one of them was set before the draw. -/
theorem drawSprite_spec (fb : Framebuffer) (x0 y0 : Byte) (rows : List Byte) (hl : rows.length ≤ 32) :
    (∀ px py, SpriteCovers x0.toNat y0.toNat rows px py →
      (drawSprite fb x0 y0 rows).fb.pixel px py = !fb.pixel px py) ∧
    (∀ px py, ¬ SpriteCovers x0.toNat y0.toNat rows px py →
      (drawSprite fb x0 y0 rows).fb.pixel px py = fb.pixel px py) ∧
    ((drawSprite fb x0 y0 rows).collided = true ↔
      ∃ px py, SpriteCovers x0.toNat y0.toNat rows px py ∧ fb.pixel px py = true) := by
  obtain ⟨h1, h2, h3⟩ := drawRows_spec x0.toNat y0.toNat rows hl ⟨fb, false⟩
  exact ⟨h1, h2, h3.trans (by simp)⟩

end Sys2Proof.Machine
end

