-- ==== Sys2Proof/Laws/Memory.lean ====
section
/-! SUPPORT. Memory: read after write, canonical form, and what the checked accesses can do. -/

namespace Sys2Proof.Machine

/-- A read gives the byte last written to the address, and a write leaves every other address alone
(R59).. -/
theorem read_write (m : Memory) (a k : Nat) (b : Byte) (h : m.wf = true) :
    (m.write a b).read k = if k = a then b else m.read k := by
  induction m with
  | nil =>
    unfold Memory.write
    by_cases h1 : k = a
    · subst h1
      split <;> simp_all [Memory.read]
    · split <;> simp [Memory.read, Ne.symm h1]
  | cons c rest ih =>
    obtain ⟨c, d⟩ := c
    simp only [Memory.wf, Bool.and_eq_true, List.all_eq_true, decide_eq_true_eq] at h
    obtain ⟨⟨hd, hlt⟩, hrest⟩ := h
    have hnone : ∀ (r : Memory), (∀ e ∈ r, c < e.1) → ∀ q, q ≤ c → Memory.read r q = Memory.unlisted := by
      intro r hr q hq
      induction r with
      | nil => rfl
      | cons e r ihr =>
        obtain ⟨e, f⟩ := e
        have he : c < e := hr (e, f) (by simp)
        rw [Memory.read, if_neg (by omega)]
        exact ihr fun g hg => hr g (by simp [hg])
    unfold Memory.write
    by_cases h1 : a < c
    · rw [if_pos h1]
      have ha : Memory.read ((c, d) :: rest) a = Memory.unlisted := by
        rw [Memory.read, if_neg (by omega)]
        exact hnone rest hlt a (by omega)
      split
      · by_cases h2 : k = a <;> simp_all
      · rw [Memory.read]
        by_cases h2 : k = a
        · simp [h2]
        · rw [if_neg h2, if_neg (Ne.symm h2)]
    · rw [if_neg h1]
      by_cases h2 : a = c
      · subst h2
        rw [if_pos rfl]
        have ha := hnone rest hlt a (Nat.le_refl a)
        split
        · by_cases h3 : k = a
          · simp_all
          · rw [if_neg h3, Memory.read, if_neg (Ne.symm h3)]
        · rw [Memory.read, Memory.read]
          by_cases h3 : k = a
          · simp [h3]
          · simp [h3, Ne.symm h3]
      · rw [if_neg h2, Memory.read, Memory.read, ih hrest]
        by_cases h3 : k = a
        · subst h3
          simp [Ne.symm h2]
        · simp [h3]

/-- The addresses a write can list: those listed before, and its own. -/
theorem mem_write {m : Memory} {a : Nat} {b : Byte} {c : Host.Cell} (h : c ∈ m.write a b) :
    c ∈ m ∨ c.1 = a := by
  induction m with
  | nil =>
    unfold Memory.write at h
    split at h <;> simp_all
  | cons d rest ih =>
    obtain ⟨d, e⟩ := d
    unfold Memory.write at h
    split at h
    · split at h
      · exact .inl h
      · rcases List.mem_cons.mp h with h | h
        · exact .inr (by rw [h])
        · exact .inl h
    · split at h
      · split at h
        · exact .inl (List.mem_cons_of_mem _ h)
        · rcases List.mem_cons.mp h with h | h
          · exact .inr (by rw [h])
          · exact .inl (List.mem_cons_of_mem _ h)
      · rcases List.mem_cons.mp h with h | h
        · exact .inl (by rw [h]; exact List.mem_cons_self)
        · rcases ih h with h | h
          · exact .inl (List.mem_cons_of_mem _ h)
          · exact .inr h

/-- A write keeps the canonical form. -/
theorem wf_write (m : Memory) (a : Nat) (b : Byte) (h : m.wf = true) : (m.write a b).wf = true := by
  induction m with
  | nil =>
    unfold Memory.write
    split <;> simp_all [Memory.wf]
  | cons c rest ih =>
    obtain ⟨c, d⟩ := c
    have h0 := h
    simp only [Memory.wf, Bool.and_eq_true, List.all_eq_true, decide_eq_true_eq, bne_iff_ne, ne_eq] at h
    obtain ⟨⟨hd, hlt⟩, hrest⟩ := h
    unfold Memory.write
    split
    · rename_i hac
      split
      · exact h0
      · rename_i hb
        rw [Memory.wf, h0]
        simp only [bne_iff_ne, ne_eq, hb, not_false_eq_true, Bool.and_true, Bool.and_eq_true, true_and,
          List.all_eq_true, decide_eq_true_eq]
        intro e he
        rcases List.mem_cons.mp he with he | he
        · rw [he]; exact hac
        · exact Nat.lt_trans hac (hlt e he)
    · split
      · rename_i hac
        subst hac
        split
        · exact hrest
        · rename_i hb
          simp only [Memory.wf, Bool.and_eq_true, List.all_eq_true, decide_eq_true_eq, bne_iff_ne, ne_eq]
          exact ⟨⟨hb, hlt⟩, hrest⟩
      · simp only [Memory.wf, Bool.and_eq_true, List.all_eq_true, decide_eq_true_eq, bne_iff_ne, ne_eq]
        refine ⟨⟨hd, fun e he => ?_⟩, ih hrest⟩
        rcases mem_write he with he | he
        · exact hlt e he
        · omega

/-- A write inside the address space keeps every listed address inside it. -/
theorem inRange_write (m : Memory) (a : Nat) (b : Byte) (h : m.inRange = true) (ha : a < 0x1000) :
    (m.write a b).inRange = true := by
  simp only [Memory.inRange, List.all_eq_true, decide_eq_true_eq] at h ⊢
  intro e he
  rcases mem_write he with he | he
  · exact h e he
  · exact he ▸ ha

/-! ## Spans -/

@[simp] theorem readBytes_length (m : Memory) (a n : Nat) : (m.readBytes a n).length = n := by
  induction n generalizing a with
  | zero => rfl
  | succ n ih => simp [Memory.readBytes, ih]

/-- Byte `k` of a span read is the byte at `a + k`. -/
theorem readBytes_getD (m : Memory) (a n k : Nat) (h : k < n) :
    (m.readBytes a n).getD k 0#8 = m.read (a + k) := by
  induction n generalizing a k with
  | zero => omega
  | succ n ih =>
    cases k with
    | zero => simp [Memory.readBytes]
    | succ k =>
      simp only [Memory.readBytes, List.getD_cons_succ]
      rw [ih (a + 1) k (by omega), show a + 1 + k = a + (k + 1) by omega]

theorem wf_writeBytes (m : Memory) (a : Nat) (bs : List Byte) (h : m.wf = true) :
    (m.writeBytes a bs).wf = true := by
  induction bs generalizing m a with
  | nil => exact h
  | cons b rest ih => exact ih _ _ (wf_write m a b h)

theorem inRange_writeBytes (m : Memory) (a : Nat) (bs : List Byte) (h : m.inRange = true)
    (ha : a + bs.length ≤ 0x1000) : (m.writeBytes a bs).inRange = true := by
  induction bs generalizing m a with
  | nil => exact h
  | cons b rest ih =>
    simp only [List.length_cons] at ha
    exact ih _ _ (inRange_write m a b h (by omega)) (by omega)

/-- After a span write the span reads as the bytes written and every other address as before. -/
theorem read_writeBytes (m : Memory) (a k : Nat) (bs : List Byte) (h : m.wf = true) :
    (m.writeBytes a bs).read k =
      if a ≤ k ∧ k < a + bs.length then bs.getD (k - a) 0#8 else m.read k := by
  induction bs generalizing m a with
  | nil =>
    have : ¬ (a ≤ k ∧ k < a + ([] : List Byte).length) := by simp
    rw [if_neg this]; rfl
  | cons b rest ih =>
    rw [Memory.writeBytes, ih _ _ (wf_write m a b h), read_write m a k b h, List.length_cons]
    by_cases h1 : k = a
    · simp [h1]
    · by_cases h2 : a + 1 ≤ k ∧ k < a + 1 + rest.length
      · rw [if_pos h2, if_pos (by omega), show k - a = (k - (a + 1)) + 1 by omega]
        simp
      · rw [if_neg h2, if_neg h1, if_neg (by omega)]

/-! ## The checked accesses (R49, R50, R56) -/

theorem spanInBounds_iff (a n : Nat) : spanInBounds a n = true ↔ n = 0 ∨ a + n ≤ 0x1000 := by
  simp only [spanInBounds, Bool.or_eq_true, beq_iff_eq, decide_eq_true_eq]

/-- A span read either gives the bytes, every address existing, or is out of bounds. -/
theorem readSpan_cases (s : State) (a n : Nat) :
    (spanInBounds a n = true ∧ readSpan s a n = .ok (s.mem.readBytes a n)) ∨
    (spanInBounds a n = false ∧ readSpan s a n = .error .outOfBounds) := by
  unfold readSpan
  cases spanInBounds a n <;> simp

/-- A span write either writes every byte, every address existing, or none. -/
theorem writeSpan_cases (s : State) (a : Nat) (bs : List Byte) :
    (spanInBounds a bs.length = true ∧ writeSpan s a bs = .ok (s.setMem (s.mem.writeBytes a bs))) ∨
    (spanInBounds a bs.length = false ∧ writeSpan s a bs = .error .outOfBounds) := by
  unfold writeSpan
  cases spanInBounds a bs.length <;> simp

/-- What the fetch can do (R77). -/
theorem fetch_cases (s : State) :
    (0x1000 ≤ s.pc.toNat ∧ fetch s = .error .endOfMemory) ∨
    (s.pc.toNat = 0xFFF ∧ fetch s = .error .outOfBounds) ∨
    (s.pc.toNat ≤ 0xFFE ∧
      fetch s = .ok (wordOfBytes (s.mem.read s.pc.toNat) (s.mem.read (s.pc.toNat + 1)))) := by
  unfold fetch readWord memSize
  split
  · exact .inl ⟨by omega, rfl⟩
  · split
    · exact .inr (.inl ⟨by omega, rfl⟩)
    · exact .inr (.inr ⟨by omega, rfl⟩)

end Sys2Proof.Machine
end

