-- ==== Sys2Proof/Laws/Registers.lean ====
section
/-! SUPPORT. The general registers: what a register reads as after each update. -/

namespace Sys2Proof.Machine

/-- Every register reads back the last value written to it, and no other register changes (R16). -/
@[simp] theorem reg_setReg (s : State) (x j : Reg) (b : Byte) :
    (s.setReg x b).reg j = if j = x then b else s.reg j := by
  simp [State.setReg, State.reg, Vector.getElem_set, BitVec.toNat_inj, eq_comm]

theorem reg_setReg_same (s : State) (x : Reg) (b : Byte) : (s.setReg x b).reg x = b := by simp

theorem reg_setReg_ne (s : State) {x j : Reg} (b : Byte) (h : j ≠ x) :
    (s.setReg x b).reg j = s.reg j := by simp [h]

/-- VF is general register 15 (R17). -/
theorem vf_eq_reg (s : State) : s.vf = s.reg regF := rfl

@[simp] theorem reg_setVf (s : State) (j : Reg) (b : Byte) :
    (s.setVf b).reg j = if j = regF then b else s.reg j := reg_setReg s regF j b

/-- A register depends on the register file alone. -/
theorem reg_congr {s t : State} (h : t.v = s.v) (j : Reg) : t.reg j = s.reg j := by
  simp [State.reg, h]

section OtherUpdates
variable (s : State) (j : Reg)

@[simp] theorem reg_setI (w : Word) : (s.setI w).reg j = s.reg j := rfl
@[simp] theorem reg_setPc (w : Word) : (s.setPc w).reg j = s.reg j := rfl
@[simp] theorem reg_setFb (fb : Framebuffer) : (s.setFb fb).reg j = s.reg j := rfl
@[simp] theorem reg_setMem (m : Memory) : (s.setMem m).reg j = s.reg j := rfl
@[simp] theorem reg_setStack (k : List Word) : (s.setStack k).reg j = s.reg j := rfl
@[simp] theorem reg_advance : s.advance.reg j = s.reg j := rfl
@[simp] theorem reg_skipIf (c : Bool) : (s.skipIf c).reg j = s.reg j := rfl
@[simp] theorem reg_raiseHalt (r : HaltReason) (w : Option Word) : (raiseHalt r w s).reg j = s.reg j := rfl
@[simp] theorem reg_emit (e : Event) : (s.emit e).reg j = s.reg j := rfl
@[simp] theorem reg_beginWait (x : Reg) : (s.beginWait x).reg j = s.reg j := rfl
@[simp] theorem reg_resume : s.resume.reg j = s.reg j := rfl
@[simp] theorem reg_betweenSteps : (betweenSteps s).reg j = s.reg j := rfl
@[simp] theorem reg_dtWrite (b : Byte) : (dtWrite b s).reg j = s.reg j := rfl
@[simp] theorem reg_stWrite (b : Byte) : (stWrite b s).reg j = s.reg j := rfl
@[simp] theorem reg_rng : (rng s).2.reg j = s.reg j := rfl

end OtherUpdates

/-! ## Register lists (R115, R116) -/

@[simp] theorem regsFrom_length (s : State) (k n : Nat) : (s.regsFrom k n).length = n := by
  induction n generalizing k with
  | zero => rfl
  | succ n ih => simp [State.regsFrom, ih]

@[simp] theorem regsUpTo_length (s : State) (x : Reg) : (s.regsUpTo x).length = x.toNat + 1 := by
  simp [State.regsUpTo, regCount]

theorem regsFrom_getElem? (s : State) (k n m : Nat) (h : m < n) :
    (s.regsFrom k n)[m]? = some (s.reg (BitVec.ofNat 4 (k + m))) := by
  induction n generalizing k m with
  | zero => omega
  | succ n ih =>
    cases m with
    | zero => simp [State.regsFrom]
    | succ m =>
      simp only [State.regsFrom, List.getElem?_cons_succ]
      rw [ih (k + 1) m (by omega)]
      congr 3
      omega

/-- Registers written from a list: register `j` takes the list's value at its own place, and a
register outside the list keeps its own (R116). -/
theorem reg_setRegsFrom (s : State) (k : Nat) (bs : List Byte) (hk : k + bs.length ≤ 16) (j : Reg) :
    (s.setRegsFrom k bs).reg j =
      if k ≤ j.toNat ∧ j.toNat < k + bs.length then bs.getD (j.toNat - k) 0#8 else s.reg j := by
  induction bs generalizing s k with
  | nil =>
    have : ¬ (k ≤ j.toNat ∧ j.toNat < k + ([] : List Byte).length) := by simp
    rw [if_neg this]; rfl
  | cons b rest ih =>
    simp only [List.length_cons] at hk
    rw [State.setRegsFrom, ih _ _ (by omega), reg_setReg, List.length_cons]
    have hj : j = BitVec.ofNat 4 k ↔ j.toNat = k := by
      rw [← BitVec.toNat_inj, BitVec.toNat_ofNat, Nat.mod_eq_of_lt (by omega)]
    by_cases h1 : j.toNat = k
    · simp [hj, h1]
    · rw [if_neg (mt hj.mp h1)]
      by_cases h2 : k + 1 ≤ j.toNat ∧ j.toNat < k + 1 + rest.length
      · rw [if_pos h2, if_pos (by omega), show j.toNat - k = (j.toNat - (k + 1)) + 1 by omega]
        simp
      · rw [if_neg h2, if_neg (by omega)]

section SetRegsFrom

/-- Writing registers from a list writes the register file alone. -/
theorem setRegsFrom_eq (s : State) (k : Nat) (bs : List Byte) :
    s.setRegsFrom k bs = { s with v := (s.setRegsFrom k bs).v } := by
  induction bs generalizing s k with
  | nil => rfl
  | cons b rest ih => rw [State.setRegsFrom, ih]; rfl

variable (s : State) (k : Nat) (bs : List Byte)

@[simp] theorem setRegsFrom_i : (s.setRegsFrom k bs).i = s.i := by rw [setRegsFrom_eq]
@[simp] theorem setRegsFrom_pc : (s.setRegsFrom k bs).pc = s.pc := by rw [setRegsFrom_eq]
@[simp] theorem setRegsFrom_stack : (s.setRegsFrom k bs).stack = s.stack := by rw [setRegsFrom_eq]
@[simp] theorem setRegsFrom_fb : (s.setRegsFrom k bs).fb = s.fb := by rw [setRegsFrom_eq]
@[simp] theorem setRegsFrom_mem : (s.setRegsFrom k bs).mem = s.mem := by rw [setRegsFrom_eq]
@[simp] theorem setRegsFrom_runState : (s.setRegsFrom k bs).runState = s.runState := by rw [setRegsFrom_eq]
@[simp] theorem setRegsFrom_haltReason : (s.setRegsFrom k bs).haltReason = s.haltReason := by
  rw [setRegsFrom_eq]
@[simp] theorem setRegsFrom_faultWord : (s.setRegsFrom k bs).faultWord = s.faultWord := by
  rw [setRegsFrom_eq]
@[simp] theorem setRegsFrom_faultWordValid :
    (s.setRegsFrom k bs).faultWordValid = s.faultWordValid := by rw [setRegsFrom_eq]
@[simp] theorem setRegsFrom_waitX : (s.setRegsFrom k bs).waitX = s.waitX := by rw [setRegsFrom_eq]
@[simp] theorem setRegsFrom_dt : (s.setRegsFrom k bs).dt = s.dt := by rw [setRegsFrom_eq]
@[simp] theorem setRegsFrom_st : (s.setRegsFrom k bs).st = s.st := by rw [setRegsFrom_eq]
@[simp] theorem setRegsFrom_stackDepth : (s.setRegsFrom k bs).stackDepth = s.stackDepth := by
  rw [setRegsFrom_eq]
@[simp] theorem setRegsFrom_inputAttached :
    (s.setRegsFrom k bs).inputAttached = s.inputAttached := by rw [setRegsFrom_eq]
@[simp] theorem setRegsFrom_rngCalls : (s.setRegsFrom k bs).rngCalls = s.rngCalls := by rw [setRegsFrom_eq]
@[simp] theorem setRegsFrom_keyDownCalls : (s.setRegsFrom k bs).keyDownCalls = s.keyDownCalls := by
  rw [setRegsFrom_eq]
@[simp] theorem setRegsFrom_nextKeyCalls : (s.setRegsFrom k bs).nextKeyCalls = s.nextKeyCalls := by
  rw [setRegsFrom_eq]
@[simp] theorem setRegsFrom_tickDraws : (s.setRegsFrom k bs).tickDraws = s.tickDraws := by
  rw [setRegsFrom_eq]
@[simp] theorem setRegsFrom_trace : (s.setRegsFrom k bs).trace = s.trace := by rw [setRegsFrom_eq]

end SetRegsFrom

end Sys2Proof.Machine
end

