-- ==== Sys2Proof/Laws/Halts.lean ====
section
/-! SUPPORT. The operations that can halt: what each of them can answer, once. -/

namespace Sys2Proof.Machine

@[simp] theorem orHalt_ok (ins : Instr) (s t : State) : orHalt ins s (.ok t) = .next t := rfl

/-- A halt of an executing instruction is a next state that records its word (R129). -/
@[simp] theorem orHalt_error (ins : Instr) (s : State) (r : HaltReason) :
    orHalt ins s (.error r) = .next (raiseHalt r (some (encode ins)) s) := rfl

/-! ## Call stack (R27) -/

theorem stackFull_iff (s : State) : s.stackFull = true ↔ s.stackDepth = .bounded s.sp := by
  unfold State.stackFull
  cases s.stackDepth with
  | unbounded => simp
  | bounded n => simpa using ⟨Eq.symm, Eq.symm⟩

/-- What `Push` can do. -/
theorem push_cases (w : Word) (s : State) :
    (s.stackFull = false ∧ push w s = .ok (s.setStack (w :: s.stack))) ∨
    (s.stackFull = true ∧ push w s = .error .stackOverflow) := by
  unfold push
  cases s.stackFull <;> simp

/-- What `Pop` can do. -/
theorem pop_cases (s : State) :
    (s.stack = [] ∧ pop s = .error .stackUnderflow) ∨
    (∃ w rest, s.stack = w :: rest ∧ pop s = .ok (w, s.setStack rest)) := by
  unfold pop
  cases s.stack <;> simp

/-- What a call can do (R88, R90). -/
theorem pushAndJump_cases (target : Word) (s : State) :
    (s.stackFull = false ∧
      pushAndJump target s = .ok ((s.setStack ((s.pc + 2#16) :: s.stack)).setPc target)) ∨
    (s.stackFull = true ∧ pushAndJump target s = .error .stackOverflow) := by
  unfold pushAndJump
  rcases push_cases (s.pc + 2#16) s with ⟨h, e⟩ | ⟨h, e⟩ <;> simp [h, e]

/-! ## Transfers (R114-R116) -/

/-- What a store at I can do. -/
theorem storeAtI_cases (bs : List Byte) (s : State) :
    (spanInBounds s.base bs.length = true ∧
      storeAtI bs s = .ok (s.setMem (s.mem.writeBytes s.base bs)).advance) ∨
    (spanInBounds s.base bs.length = false ∧ storeAtI bs s = .error .outOfBounds) := by
  unfold storeAtI
  rcases writeSpan_cases s s.base bs with ⟨h, e⟩ | ⟨h, e⟩ <;> simp [h, e]

/-- What FX65 can do. -/
theorem execLdVxMem_cases (x : Reg) (s : State) :
    (spanInBounds s.base (x.toNat + 1) = true ∧ execLdVxMem x s =
      .next (s.setRegsFrom 0 (s.mem.readBytes s.base (x.toNat + 1))).advance) ∨
    (spanInBounds s.base (x.toNat + 1) = false ∧
      execLdVxMem x s = .next (raiseHalt .outOfBounds (some (encode (.ldVxMem x))) s)) := by
  unfold execLdVxMem regCount
  rcases readSpan_cases s s.base (x.toNat + 1) with ⟨h, e⟩ | ⟨h, e⟩ <;> simp [h, e]

/-- What DXYN can do (R121). -/
theorem execDrw_cases (x y : Reg) (n : Nibble) (s : State) :
    (spanInBounds s.base n.toNat = true ∧ ∃ c,
      c = drawSprite s.fb (s.reg x) (s.reg y) (s.mem.readBytes s.base n.toNat) ∧
      execDrw x y n s = .next ((s.setFb c.fb).setVf (collisionFlag c.collided)).advance) ∨
    (spanInBounds s.base n.toNat = false ∧
      execDrw x y n s = .next (raiseHalt .outOfBounds (some (encode (.drw x y n))) s)) := by
  unfold execDrw
  rcases readSpan_cases s s.base n.toNat with ⟨h, e⟩ | ⟨h, e⟩ <;> simp [h, e]

end Sys2Proof.Machine
end

