-- ==== Sys2Proof/Laws/HostPorts.lean ====
section
/-! SUPPORT. The host's operations: what a step reports, what a load can do, and that booting keeps memory in canonical form. -/

namespace Sys2Proof.Machine

/-- `Step()` reports the status registers as they are after the step (R34, R40). -/
theorem hostStep_next {s t : State} (h : engineStep s = .next t) : hostStep s = some (t, t.status) := by
  unfold hostStep; rw [h]

/-- What `Load` can do (R41, R131). -/
theorem load_cases (offset : Nat) (bytes : List Byte) (s : State) :
    (offset + bytes.length ≤ 0x1000 ∧ load offset bytes s = .ok (s.setMem (s.mem.writeBytes offset bytes))) ∨
    (0x1000 < offset + bytes.length ∧ load offset bytes s = .error .loadTooLarge) := by
  unfold load
  by_cases h : offset + bytes.length > memSize
  · exact .inr ⟨h, if_pos h⟩
  · exact .inl ⟨Nat.le_of_not_lt h, if_neg h⟩

/-- Loads change memory alone, and keep its canonical form. -/
theorem loadAll_keeps {loads : List (Nat × List Byte)} {s t : State} (h : loadAll loads s = .ok t)
    (hw : s.mem.wf = true) (hr : s.mem.inRange = true) :
    t.mem.wf = true ∧ t.mem.inRange = true ∧ t = s.setMem t.mem := by
  induction loads generalizing s with
  | nil => cases h; exact ⟨hw, hr, rfl⟩
  | cons l rest ih =>
    obtain ⟨offset, bytes⟩ := l
    unfold loadAll at h
    rcases load_cases offset bytes s with ⟨hl, e⟩ | ⟨hl, e⟩ <;> rw [e] at h
    · obtain ⟨h1, h2, h3⟩ := ih h (wf_writeBytes _ _ _ hw) (inRange_writeBytes _ _ _ hr hl)
      exact ⟨h1, h2, h3⟩
    · cases h

/-- Boot leaves memory in canonical form (R146). -/
theorem boot_memory {depth : StackDepth} {input : Bool} {loads : List (Nat × List Byte)} {t : State}
    (h : boot depth input loads = .ok t) : t.mem.wf = true ∧ t.mem.inRange = true :=
  let ⟨h1, h2, _⟩ := loadAll_keeps h rfl rfl
  ⟨h1, h2⟩

end Sys2Proof.Machine
end

