-- ==== Sys2Proof/Laws/PerInstr.lean ====
section
/-! SUPPORT. Facts proved instruction by instruction: every instruction's word lies in its own row of the
opcode map (30_encoding.md R71). -/

namespace Sys2Proof.Laws.RowMatch

/-- The instruction's word, masked with its row's mask, is its row's match (R71). -/
def Statement (i : Instr) : Prop := encode i &&& (opcodeRow i).1 = (opcodeRow i).2

theorem cls : Statement (.cls) :=
  rfl

theorem ret : Statement (.ret) :=
  rfl

theorem sys (nnn : Addr12) : Statement (.sys nnn) :=
  packAddr_and_F000 0x0#4 nnn

theorem jp (nnn : Addr12) : Statement (.jp nnn) :=
  packAddr_and_F000 0x1#4 nnn

theorem call (nnn : Addr12) : Statement (.call nnn) :=
  packAddr_and_F000 0x2#4 nnn

theorem seImm (x : Reg) (nn : Byte) : Statement (.seImm x nn) :=
  packRegByte_and_F000 0x3#4 x nn

theorem sneImm (x : Reg) (nn : Byte) : Statement (.sneImm x nn) :=
  packRegByte_and_F000 0x4#4 x nn

theorem seReg (x : Reg) (y : Reg) : Statement (.seReg x y) :=
  packRegReg_and_F00F 0x5#4 x y 0x0#4

theorem ldImm (x : Reg) (nn : Byte) : Statement (.ldImm x nn) :=
  packRegByte_and_F000 0x6#4 x nn

theorem addImm (x : Reg) (nn : Byte) : Statement (.addImm x nn) :=
  packRegByte_and_F000 0x7#4 x nn

theorem ldReg (x : Reg) (y : Reg) : Statement (.ldReg x y) :=
  packRegReg_and_F00F 0x8#4 x y 0x0#4

theorem or (x : Reg) (y : Reg) : Statement (.or x y) :=
  packRegReg_and_F00F 0x8#4 x y 0x1#4

theorem and (x : Reg) (y : Reg) : Statement (.and x y) :=
  packRegReg_and_F00F 0x8#4 x y 0x2#4

theorem xor (x : Reg) (y : Reg) : Statement (.xor x y) :=
  packRegReg_and_F00F 0x8#4 x y 0x3#4

theorem addReg (x : Reg) (y : Reg) : Statement (.addReg x y) :=
  packRegReg_and_F00F 0x8#4 x y 0x4#4

theorem sub (x : Reg) (y : Reg) : Statement (.sub x y) :=
  packRegReg_and_F00F 0x8#4 x y 0x5#4

theorem shr (x : Reg) (y : Reg) : Statement (.shr x y) :=
  packRegReg_and_F00F 0x8#4 x y 0x6#4

theorem subn (x : Reg) (y : Reg) : Statement (.subn x y) :=
  packRegReg_and_F00F 0x8#4 x y 0x7#4

theorem shl (x : Reg) (y : Reg) : Statement (.shl x y) :=
  packRegReg_and_F00F 0x8#4 x y 0xE#4

theorem sneReg (x : Reg) (y : Reg) : Statement (.sneReg x y) :=
  packRegReg_and_F00F 0x9#4 x y 0x0#4

theorem ldI (nnn : Addr12) : Statement (.ldI nnn) :=
  packAddr_and_F000 0xA#4 nnn

theorem jpV0 (nnn : Addr12) : Statement (.jpV0 nnn) :=
  packAddr_and_F000 0xB#4 nnn

theorem rnd (x : Reg) (nn : Byte) : Statement (.rnd x nn) :=
  packRegByte_and_F000 0xC#4 x nn

theorem drw (x : Reg) (y : Reg) (n : Nibble) : Statement (.drw x y n) :=
  packRegReg_and_F000 0xD#4 x y n

theorem skp (x : Reg) : Statement (.skp x) :=
  packRegByte_and_F0FF 0xE#4 x 0x9E#8

theorem sknp (x : Reg) : Statement (.sknp x) :=
  packRegByte_and_F0FF 0xE#4 x 0xA1#8

theorem ldVxDt (x : Reg) : Statement (.ldVxDt x) :=
  packRegByte_and_F0FF 0xF#4 x 0x07#8

theorem ldVxK (x : Reg) : Statement (.ldVxK x) :=
  packRegByte_and_F0FF 0xF#4 x 0x0A#8

theorem ldDtVx (x : Reg) : Statement (.ldDtVx x) :=
  packRegByte_and_F0FF 0xF#4 x 0x15#8

theorem ldStVx (x : Reg) : Statement (.ldStVx x) :=
  packRegByte_and_F0FF 0xF#4 x 0x18#8

theorem addI (x : Reg) : Statement (.addI x) :=
  packRegByte_and_F0FF 0xF#4 x 0x1E#8

theorem ldF (x : Reg) : Statement (.ldF x) :=
  packRegByte_and_F0FF 0xF#4 x 0x29#8

theorem ldB (x : Reg) : Statement (.ldB x) :=
  packRegByte_and_F0FF 0xF#4 x 0x33#8

theorem ldMemVx (x : Reg) : Statement (.ldMemVx x) :=
  packRegByte_and_F0FF 0xF#4 x 0x55#8

theorem ldVxMem (x : Reg) : Statement (.ldVxMem x) :=
  packRegByte_and_F0FF 0xF#4 x 0x65#8

end Sys2Proof.Laws.RowMatch
end

