-- ==== Sys2Proof/Laws/Ports.lean ====
section
/-! SUPPORT. The ports: what a call of each can do, and that the timer device's elapsed time is its ticks. -/

namespace Sys2Proof.Machine

/-- A call of `Rng()` changes the number of calls alone (R42). -/
theorem rng_eq (s : State) :
    rng s = (Config.rngByte s.rngCalls, { s with rngCalls := s.rngCalls + 1 }) := rfl

/-- What a call of `KeyDown` can do (R43, D16). -/
theorem keyDown_cases (k : Byte) (s : State) :
    (s.inputAttached = true ∧
      keyDown k s = (some (Config.keyDown s.keyDownCalls k), { s with keyDownCalls := s.keyDownCalls + 1 })) ∨
    (s.inputAttached = false ∧ keyDown k s = (none, s)) := by
  unfold keyDown
  cases s.inputAttached <;> simp

/-- What a call of `NextKey` can do (R43, D16). -/
theorem nextKey_cases (s : State) :
    (s.inputAttached = true ∧
      nextKey s = (Config.nextKey s.nextKeyCalls, { s with nextKeyCalls := s.nextKeyCalls + 1 })) ∨
    (s.inputAttached = false ∧ nextKey s = (none, s)) := by
  unfold nextKey
  cases s.inputAttached <;> simp

/-! ## The timer device (R139) -/

/-- A counter at 0 stays at 0 (R139). -/
@[simp] theorem countDownBy_zero_counter (n : Nat) : countDownBy n 0#8 = 0#8 := rfl

/-- Decrementing `n` times takes `n` off, but not below 0. -/
theorem countDownBy_toNat (n : Nat) (c : Byte) : (countDownBy n c).toNat = c.toNat - n := by
  unfold countDownBy
  split
  · simp [*]
  · rw [BitVec.toNat_ofNat, Nat.mod_eq_of_lt (by have := c.isLt; omega)]

theorem countDown_toNat (c : Byte) : (countDown c).toNat = c.toNat - 1 := by
  unfold countDown
  split
  · simp [*]
  · rename_i h
    have : c.toNat ≠ 0 := fun h0 => h (BitVec.eq_of_toNat_eq (by simpa using h0))
    have := c.isLt
    rw [BitVec.toNat_sub]
    simp
    omega

theorem countDownBy_succ (n : Nat) (c : Byte) : countDownBy (n + 1) c = countDownBy n (countDown c) :=
  BitVec.eq_of_toNat_eq (by rw [countDownBy_toNat, countDownBy_toNat, countDown_toNat]; omega)

theorem countDownBy_none (c : Byte) : countDownBy 0 c = c :=
  BitVec.eq_of_toNat_eq (by rw [countDownBy_toNat]; rfl)

/-- The device after `n` ticks is `Tick()` taken `n` times. -/
theorem elapse_eq_ticks (n : Nat) (s : State) : elapse n s = Nat.repeat tick n s := by
  have h : ∀ n, elapse n (tick s) = tick (elapse n s) := by
    intro n
    have hc : ∀ c, countDownBy n (countDown c) = countDown (countDownBy n c) := fun c =>
      BitVec.eq_of_toNat_eq (by
        rw [countDownBy_toNat, countDown_toNat, countDown_toNat, countDownBy_toNat]; omega)
    simp [elapse, tick, hc]
  induction n with
  | zero => simp [elapse, countDownBy_none, Nat.repeat]
  | succ n ih =>
    rw [Nat.repeat, ← ih, ← h n]
    simp [elapse, tick, countDownBy_succ]

end Sys2Proof.Machine
end

