-- ==== Sys2Proof/Laws/Step.lean ====
section
/-! SUPPORT. What one step can do, and that a placed word is the one the next step fetches. -/

namespace Sys2Proof.Machine

theorem engineStep_halted {s : State} (h : s.runState = .halted) : engineStep s = .next s := by
  unfold engineStep; rw [h]

theorem engineStep_awaitKey {s : State} (h : s.runState = .awaitKey) : engineStep s = keyWaitStep s := by
  unfold engineStep; rw [h]

theorem engineStep_fetchHalt {s : State} (h : s.runState = .running) {r : HaltReason}
    (hf : fetch s = .error r) : engineStep s = .next (raiseHalt r none s) := by
  unfold engineStep; rw [h]; simp only [hf]

theorem engineStep_instr {s : State} (h : s.runState = .running) {w : Word} (hf : fetch s = .ok w)
    {i : Instr} (hd : decode w = .instr i) : engineStep s = exec i s := by
  unfold engineStep; rw [h]; simp only [hf, hd]

theorem engineStep_unknown {s : State} (h : s.runState = .running) {w u : Word} (hf : fetch s = .ok w)
    (hd : decode w = .unknown u) : engineStep s = execUnknown u s := by
  unfold engineStep; rw [h]; simp only [hf, hd]

/-- A run whose first step has a next state goes on from it. -/
theorem run_next {s t : State} (k : Nat) (h : step s = .next t) : core.run (k + 1) s = core.run k t := by
  have h' : core.step s = .next t := h
  simp only [Host.Core.run, h']

/-- Everything the engine's step can do (R76). -/
theorem engineStep_cases (s : State) :
    (s.runState = .halted ∧ engineStep s = .next s) ∨
    (s.runState = .awaitKey ∧ engineStep s = keyWaitStep s) ∨
    (s.runState = .running ∧ 0x1000 ≤ s.pc.toNat ∧ engineStep s = .next (raiseHalt .endOfMemory none s)) ∨
    (s.runState = .running ∧ s.pc.toNat = 0xFFF ∧ engineStep s = .next (raiseHalt .outOfBounds none s)) ∨
    (s.runState = .running ∧ s.pc.toNat ≤ 0xFFE ∧ ∃ w,
      w = wordOfBytes (s.mem.read s.pc.toNat) (s.mem.read (s.pc.toNat + 1)) ∧
      ((∃ i, decode w = .instr i ∧ engineStep s = exec i s) ∨
       (∃ u, decode w = .unknown u ∧ engineStep s = execUnknown u s))) := by
  rcases hr : s.runState with _ | _ | _
  · rcases fetch_cases s with ⟨hp, hf⟩ | ⟨hp, hf⟩ | ⟨hp, hf⟩
    · exact .inr (.inr (.inl ⟨rfl, hp, engineStep_fetchHalt hr hf⟩))
    · exact .inr (.inr (.inr (.inl ⟨rfl, hp, engineStep_fetchHalt hr hf⟩)))
    · refine .inr (.inr (.inr (.inr ⟨rfl, hp, _, rfl, ?_⟩)))
      rcases hd : decode (wordOfBytes (s.mem.read s.pc.toNat) (s.mem.read (s.pc.toNat + 1))) with i | u
      · exact .inl ⟨i, rfl, engineStep_instr hr hf hd⟩
      · exact .inr ⟨u, rfl, engineStep_unknown hr hf hd⟩
  · exact .inr (.inl ⟨rfl, engineStep_awaitKey hr⟩)
  · exact .inl ⟨rfl, engineStep_halted hr⟩

/-- Everything the key-wait step can do (R126). -/
theorem keyWaitStep_cases (s : State) :
    (s.inputAttached = false ∧ keyWaitStep s = .next s) ∨
    (s.inputAttached = true ∧ Config.nextKey s.nextKeyCalls = none ∧
      keyWaitStep s = .next { s with nextKeyCalls := s.nextKeyCalls + 1 }) ∨
    (s.inputAttached = true ∧ ∃ key, Config.nextKey s.nextKeyCalls = some key ∧
      keyWaitStep s = .next
        (({ s with nextKeyCalls := s.nextKeyCalls + 1 } : State).setReg s.waitX (zext4 key)).advance.resume) := by
  rcases nextKey_cases s with ⟨h, e⟩ | ⟨h, e⟩
  · rcases hk : Config.nextKey s.nextKeyCalls with _ | key
    · exact .inr (.inl ⟨h, rfl, by unfold keyWaitStep; rw [e, hk]⟩)
    · exact .inr (.inr ⟨h, key, rfl, by unfold keyWaitStep; rw [e, hk]⟩)
  · exact .inl ⟨h, by unfold keyWaitStep; rw [e]⟩

/-- A placed word is what the next step fetches. -/
theorem fetch_placeWord (s : State) (w : Word) (h : s.mem.wf = true) :
    fetch (s.placeWord w) = .ok w := by
  have hpc : s.readyToFetch.pc.toNat ≤ 0xFFE := by
    unfold State.readyToFetch memSize
    simp only
    split
    · decide
    · omega
  rcases fetch_cases (s.placeWord w) with ⟨hp, -⟩ | ⟨hp, -⟩ | ⟨-, hf⟩
  · exact absurd (show (s.placeWord w).pc.toNat ≤ 0xFFE from hpc) (by omega)
  · exact absurd (show (s.placeWord w).pc.toNat ≤ 0xFFE from hpc) (by omega)
  · rw [hf]
    have hw : s.readyToFetch.mem.wf = true := h
    have h0 := read_writeBytes s.readyToFetch.mem s.readyToFetch.pc.toNat s.readyToFetch.pc.toNat
      [wordHi w, wordLo w] hw
    have h1 := read_writeBytes s.readyToFetch.mem s.readyToFetch.pc.toNat (s.readyToFetch.pc.toNat + 1)
      [wordHi w, wordLo w] hw
    rw [if_pos (by simp), Nat.sub_self] at h0
    rw [if_pos (by simp), Nat.add_sub_cancel_left] at h1
    have h0' : (s.placeWord w).mem.read (s.placeWord w).pc.toNat = wordHi w := h0
    have h1' : (s.placeWord w).mem.read ((s.placeWord w).pc.toNat + 1) = wordLo w := h1
    rw [h0', h1', wordOfBytes_bytes]

/-- The ticks before a step do not change what it fetches. -/
@[simp] theorem fetch_betweenSteps (s : State) : fetch (betweenSteps s) = fetch s := rfl

/-- A step where an instruction is fetched: the ticks, then the instruction. -/
theorem step_instr {s : State} (h : s.runState = .running) {w : Word} (hf : fetch s = .ok w)
    {i : Instr} (hd : decode w = .instr i) : step s = exec i (betweenSteps s) :=
  engineStep_instr (s := betweenSteps s) h hf hd

/-- A step of a halted engine: the ticks alone. -/
theorem step_halted {s : State} (h : s.runState = .halted) : step s = .next (betweenSteps s) :=
  engineStep_halted (s := betweenSteps s) h

/-- A placed word that decodes to an instruction runs as the very next step. -/
theorem step_withFetchWord (s : State) (nbits w : Nat) (i : Instr) (h : s.mem.wf = true)
    (hd : decode (BitVec.ofNat 16 (w % 2 ^ nbits)) = .instr i) :
    step (s.withFetchWord nbits w) = exec i (betweenSteps (s.withFetchWord nbits w)) :=
  step_instr rfl (fetch_placeWord s _ h) hd

/-! ## Transitions (R85) -/

@[simp] theorem transitions_tick (rest : List Transition) (s : State) :
    transitions (.tick :: rest) s = transitions rest (tick s) := rfl

theorem transitions_step {s t : State} (h : engineStep s = .next t) (rest : List Transition) :
    transitions (.step :: rest) s = transitions rest t := by
  simp only [transitions, transition, h]

end Sys2Proof.Machine
end

