-- ==== Sys2Proof/Tests/Slice0.lean ====
section
/-! SUPPORT. The author's tests: decodings written out from the opcode map (30_encoding.md R71), single steps with the
expected results of 95_test_vectors.md (its vector is named in each comment), and a witness for the hypotheses
of each obligation. -/

namespace Sys2Proof.Tests

open Sys2Proof Sys2Proof.Machine

/-! ## Helpers -/

/-- The reset state with VF = 0x55, so that an unchanged VF is visible. -/
def start : State := State.reset.setVf 0x55#8

/-- The next state, where there is one. -/
def went : StepResult → Option State
  | .next t => some t
  | .fault _ => none
  | .refused _ => none

/-- One step from `s` with the word `w` where it fetches. -/
def after (w : Nat) (s : State) : Option State := went (step (s.withFetchWord 16 w))

/-- A register of a next state. -/
def regOf (x : Reg) (o : Option State) : Option Byte := o.map fun t => t.reg x

/-- PC of a next state. -/
def pcOf (o : Option State) : Option Word := o.map fun t => t.pc

/-- `s` with bytes stored from an address on. -/
def poke (a : Nat) (bs : List Byte) (s : State) : State := s.setMem (s.mem.writeBytes a bs)

/-- The status registers and PC: RUN_STATE, HALT_REASON, PC, FAULT_WORD, FAULT_WORD_VALID. -/
def ended (s : State) : RunState × HaltReason × Word × Word × Bool :=
  (s.runState, s.haltReason, s.pc, s.faultWord, s.faultWordValid)

/-! ## WellFormed: the ill-formed terms -/

theorem test_wellFormed_refuses_sys_0E0 : (Instr.sys 0x0E0#12).wellFormed = false := by decide
theorem test_wellFormed_refuses_sys_0EE : (Instr.sys 0x0EE#12).wellFormed = false := by decide
theorem test_wellFormed_accepts_neighbours :
    (Instr.sys 0x0E1#12).wellFormed = true ∧ (Instr.sys 0x0EF#12).wellFormed = true := by decide

/-! ## Decode: a word of every row of R71, with distinct field values -/

theorem test_decode_cls : decode 0x00E0#16 = .instr .cls := by decide
theorem test_decode_ret : decode 0x00EE#16 = .instr .ret := by decide
/-- F9: 0x00E1 and 0x00EF are calls. -/
theorem test_decode_sys : decode 0x00E1#16 = .instr (.sys 0x0E1#12) ∧
    decode 0x00EF#16 = .instr (.sys 0x0EF#12) := by decide
theorem test_decode_jp : decode 0x1234#16 = .instr (.jp 0x234#12) := by decide
theorem test_decode_call : decode 0x2ABC#16 = .instr (.call 0xABC#12) := by decide
theorem test_decode_seImm : decode 0x34C7#16 = .instr (.seImm 0x4#4 0xC7#8) := by decide
theorem test_decode_sneImm : decode 0x4B1D#16 = .instr (.sneImm 0xB#4 0x1D#8) := by decide
theorem test_decode_seReg : decode 0x5120#16 = .instr (.seReg 0x1#4 0x2#4) := by decide
theorem test_decode_ldImm : decode 0x6F80#16 = .instr (.ldImm 0xF#4 0x80#8) := by decide
theorem test_decode_addImm : decode 0x7320#16 = .instr (.addImm 0x3#4 0x20#8) := by decide
theorem test_decode_ldReg : decode 0x8120#16 = .instr (.ldReg 0x1#4 0x2#4) := by decide
theorem test_decode_or : decode 0x8341#16 = .instr (.or 0x3#4 0x4#4) := by decide
theorem test_decode_and : decode 0x8562#16 = .instr (.and 0x5#4 0x6#4) := by decide
theorem test_decode_xor : decode 0x8783#16 = .instr (.xor 0x7#4 0x8#4) := by decide
theorem test_decode_addReg : decode 0x89A4#16 = .instr (.addReg 0x9#4 0xA#4) := by decide
theorem test_decode_sub : decode 0x8BC5#16 = .instr (.sub 0xB#4 0xC#4) := by decide
/-- The Y field, which R73 says is ignored, is kept. -/
theorem test_decode_shr : decode 0x8A36#16 = .instr (.shr 0xA#4 0x3#4) := by decide
theorem test_decode_subn : decode 0x81F7#16 = .instr (.subn 0x1#4 0xF#4) := by decide
/-- The Y field, which R73 says is ignored, is kept. -/
theorem test_decode_shl : decode 0x8D9E#16 = .instr (.shl 0xD#4 0x9#4) := by decide
theorem test_decode_sneReg : decode 0x9DE0#16 = .instr (.sneReg 0xD#4 0xE#4) := by decide
theorem test_decode_ldI : decode 0xA5F1#16 = .instr (.ldI 0x5F1#12) := by decide
theorem test_decode_jpV0 : decode 0xB201#16 = .instr (.jpV0 0x201#12) := by decide
theorem test_decode_rnd : decode 0xCDEF#16 = .instr (.rnd 0xD#4 0xEF#8) := by decide
theorem test_decode_drw : decode 0xD12E#16 = .instr (.drw 0x1#4 0x2#4 0xE#4) := by decide
theorem test_decode_skp : decode 0xE49E#16 = .instr (.skp 0x4#4) := by decide
theorem test_decode_sknp : decode 0xE5A1#16 = .instr (.sknp 0x5#4) := by decide
theorem test_decode_ldVxDt : decode 0xF207#16 = .instr (.ldVxDt 0x2#4) := by decide
theorem test_decode_ldVxK : decode 0xF30A#16 = .instr (.ldVxK 0x3#4) := by decide
theorem test_decode_ldDtVx : decode 0xF415#16 = .instr (.ldDtVx 0x4#4) := by decide
theorem test_decode_ldStVx : decode 0xF518#16 = .instr (.ldStVx 0x5#4) := by decide
theorem test_decode_addI : decode 0xF61E#16 = .instr (.addI 0x6#4) := by decide
theorem test_decode_ldF : decode 0xF729#16 = .instr (.ldF 0x7#4) := by decide
theorem test_decode_ldB : decode 0xF833#16 = .instr (.ldB 0x8#4) := by decide
theorem test_decode_ldMemVx : decode 0xF955#16 = .instr (.ldMemVx 0x9#4) := by decide
theorem test_decode_ldVxMem : decode 0xFA65#16 = .instr (.ldVxMem 0xA#4) := by decide

/-- F5's words are UNKNOWN, and carry their word. -/
theorem test_decode_unknown : decode 0x5121#16 = .unknown 0x5121#16 ∧ decode 0x8008#16 = .unknown 0x8008#16 ∧
    decode 0xE000#16 = .unknown 0xE000#16 ∧ decode 0x9001#16 = .unknown 0x9001#16 ∧
    decode 0xF0FF#16 = .unknown 0xF0FF#16 := by decide

/-- R53, R65: the byte at the lower address is the high half of the word. -/
theorem test_decodeBytes_bigEndian :
    decodeBytes [0x12#8, 0x34#8, 0x60#8] = .ok (.instr (.jp 0x234#12), [0x60#8]) := by rfl
theorem test_decodeBytes_truncated : decodeBytes [0x12#8] = .error .truncated := by rfl
theorem test_decodeTableWord_row :
    decodeTableWord 16 0xD12E = some (.drw 0x1#4 0x2#4 0xE#4) := by decide
theorem test_decodeTableWord_unknown : decodeTableWord 16 0x5121 = none := by decide

/-! ## Encode: the words of R71's patterns -/

theorem test_encode_addr : encode (.call 0xABC#12) = 0x2ABC#16 := by decide
theorem test_encode_drw : encode (.drw 0x1#4 0x2#4 0xE#4) = 0xD12E#16 := by decide
theorem test_encode_regSub : encode (.ldVxMem 0xA#4) = 0xFA65#16 := by decide

/-! ## Fetch, unknown words, halted -/

/-- F1: the last word of memory executes, and PC is 0x1000. -/
theorem test_fetch_lastWord :
    regOf 0x0#4 (after 0x6001 (start.setPc 0xFFE#16)) = some 0x01#8 ∧
    pcOf (after 0x6001 (start.setPc 0xFFE#16)) = some 0x1000#16 := by decide

/-- F2: a fetch at 0xFFF. -/
theorem test_fetch_straddling : (went (step (start.setPc 0xFFF#16))).map ended =
    some (.halted, .outOfBounds, 0xFFF#16, 0x0000#16, false) := by decide

/-- F3: a fetch at 0x1000. -/
theorem test_fetch_pastTheEnd : (went (step (start.setPc 0x1000#16))).map ended =
    some (.halted, .endOfMemory, 0x1000#16, 0x0000#16, false) := by decide

/-- F4, second step: an odd PC fetches like any other. -/
theorem test_fetch_oddPc :
    regOf 0x0#4 (went (step (poke 0x203 [0x60#8, 0x2A#8] (start.setPc 0x203#16)))) = some 0x2A#8 := by decide

/-- S11: the event, PC + 2, nothing else. -/
theorem test_unknown_word : after 0xFFFF start =
    some { start.withFetchWord 16 0xFFFF with
      pc := 0x202#16, trace := [⟨0x200#16, 0xFFFF#16⟩], tickDraws := 1 } := by decide

/-- F7: HALTED stays as it is. -/
theorem test_halted_stays :
    engineStep (raiseHalt .endOfMemory none start) = .next (raiseHalt .endOfMemory none start) := by
  rfl

/-! ## Control flow -/

/-- C1. -/
theorem test_ret_pops : (after 0x00EE ((start.setStack [0x202#16]).setPc 0x204#16)).map (fun t => (t.pc, t.sp)) =
    some (0x202#16, 0) := by decide

/-- C2. -/
theorem test_ret_underflow : (after 0x00EE (start.setPc 0x300#16)).map ended =
    some (.halted, .stackUnderflow, 0x300#16, 0x00EE#16, true) := by decide

/-- C3: 0NNN is a call. -/
theorem test_sys_calls : (after 0x0300 start).map (fun t => (t.pc, t.stack)) =
    some (0x300#16, [0x202#16]) := by decide

/-- C7. -/
theorem test_call_pushes : (after 0x2204 start).map (fun t => (t.pc, t.stack)) =
    some (0x204#16, [0x202#16]) := by decide

/-- C8: the 17th entry does not fit. -/
theorem test_call_overflow :
    (after 0x2300 ((start.setStack (List.replicate 16 0x202#16)).setPc 0x250#16)).map (fun t => (ended t, t.sp)) =
    some ((.halted, .stackOverflow, 0x250#16, 0x2300#16, true), 16) := by decide

/-- C9: without a bound it does. -/
theorem test_call_unbounded :
    (after 0x2300 { (start.setStack (List.replicate 16 0x202#16)).setPc 0x250#16 with stackDepth := .unbounded }).map
      (fun t => (t.pc, t.sp, t.stackEntry 16)) = some (0x300#16, 17, some 0x252#16) := by decide

/-- C5. -/
theorem test_jp_target : pcOf (after 0x1234 start) = some 0x234#16 := by decide

/-- C12: the sum is not reduced. -/
theorem test_jpV0_unreduced : pcOf (after 0xBFFF (start.setReg 0x0#4 0xFF#8)) = some 0x10FE#16 := by decide

/-- C15: V0 is added, whatever the X field. -/
theorem test_jpV0_usesV0 :
    pcOf (after 0xB201 ((start.setReg 0x0#4 0x01#8).setReg 0x2#4 0x40#8)) = some 0x202#16 := by decide

/-! ## Skips -/

/-- K1, K2. -/
theorem test_seImm : pcOf (after 0x3312 (start.setReg 0x3#4 0x12#8)) = some 0x204#16 ∧
    pcOf (after 0x3313 (start.setReg 0x3#4 0x12#8)) = some 0x202#16 := by decide

/-- K3, K4. -/
theorem test_sneImm : pcOf (after 0x4312 (start.setReg 0x3#4 0x12#8)) = some 0x202#16 ∧
    pcOf (after 0x4300 (start.setReg 0x3#4 0x12#8)) = some 0x204#16 := by decide

/-- K5, K6. -/
theorem test_seReg : pcOf (after 0x5120 ((start.setReg 0x1#4 0x07#8).setReg 0x2#4 0x07#8)) = some 0x204#16 ∧
    pcOf (after 0x5120 ((start.setReg 0x1#4 0x07#8).setReg 0x2#4 0x08#8)) = some 0x202#16 := by decide

/-- K8, K9. -/
theorem test_sneReg : pcOf (after 0x9120 ((start.setReg 0x1#4 0x07#8).setReg 0x2#4 0x08#8)) = some 0x204#16 ∧
    pcOf (after 0x9110 start) = some 0x202#16 := by decide

/-! ## Register-immediate and random -/

/-- I2: VF as the destination. -/
theorem test_ldImm : regOf 0xF#4 (after 0x6F80 start) = some 0x80#8 := by decide

/-- I3: wraps, and VF keeps 0x55. -/
theorem test_addImm_wraps : (after 0x70FF (start.setReg 0x0#4 0x05#8)).map (fun t => (t.reg 0x0#4, t.vf)) =
    some (0x04#8, 0x55#8) := by decide

/-- I6 to I8, for any answer of the port: masked, one call. -/
theorem test_rnd_masks : exec (.rnd 0x3#4 0x0F#8) start =
    .next ({ start with rngCalls := 1 }.setReg 0x3#4 (Config.rngByte 0 &&& 0x0F#8)).advance := by rfl

/-! ## Arithmetic and logic: the result in V0 or V1, and VF -/

/-- V0 = a, V1 = b, VF = 0x55. -/
def pair (a b : Byte) : State := (start.setReg 0x0#4 a).setReg 0x1#4 b

/-- VF = 0x80 and V1 = 0x90, for the rows where VF is an operand. -/
def flagged : State := (State.reset.setVf 0x80#8).setReg 0x1#4 0x90#8

/-- A register of a next state, and VF. -/
def withFlag (x : Reg) (o : Option State) : Option (Byte × Byte) := o.map fun t => (t.reg x, t.vf)

/-- A1. -/
theorem test_ldReg : withFlag 0x1#4 (after 0x8120 (start.setReg 0x2#4 0x33#8)) = some (0x33#8, 0x55#8) := by decide
/-- A2. -/
theorem test_or : withFlag 0x0#4 (after 0x8011 (pair 0xF0#8 0x0F#8)) = some (0xFF#8, 0x55#8) := by decide
/-- A31: the destination is VF. -/
theorem test_or_vf : regOf 0xF#4 (after 0x8F11 flagged) = some 0x90#8 := by decide
/-- A3. -/
theorem test_and : withFlag 0x0#4 (after 0x8012 (pair 0xF0#8 0x3C#8)) = some (0x30#8, 0x55#8) := by decide
/-- A4. -/
theorem test_xor : withFlag 0x0#4 (after 0x8013 (pair 0xF0#8 0xFF#8)) = some (0x0F#8, 0x55#8) := by decide
/-- A6, A7. -/
theorem test_addReg : withFlag 0x0#4 (after 0x8014 (pair 0xFF#8 0x01#8)) = some (0x00#8, 0x01#8) ∧
    withFlag 0x0#4 (after 0x8014 (pair 0x80#8 0x7F#8)) = some (0xFF#8, 0x00#8) := by decide
/-- A19, A20: the carry is lost when X = F; VF's old value is the operand when Y = F. -/
theorem test_addReg_vf : regOf 0xF#4 (after 0x8F14 flagged) = some 0x10#8 ∧
    withFlag 0x1#4 (after 0x81F4 flagged) = some (0x10#8, 0x01#8) := by decide
/-- A10, A11. -/
theorem test_sub : withFlag 0x0#4 (after 0x8015 (pair 0x03#8 0x05#8)) = some (0xFE#8, 0x00#8) ∧
    withFlag 0x0#4 (after 0x8015 (pair 0x07#8 0x07#8)) = some (0x00#8, 0x01#8) := by decide
/-- A22, A24. -/
theorem test_sub_vf : regOf 0xF#4 (after 0x8F15 flagged) = some 0xF0#8 ∧
    regOf 0xF#4 (after 0x8FF5 flagged) = some 0x00#8 := by decide
/-- A14: Y is ignored. -/
theorem test_shr : withFlag 0x0#4 (after 0x8016 (pair 0x05#8 0xFF#8)) = some (0x02#8, 0x01#8) := by decide
/-- A25, A26. -/
theorem test_shr_vf : regOf 0xF#4 (after 0x8F16 flagged) = some 0x40#8 ∧
    withFlag 0x1#4 (after 0x81F6 flagged) = some (0x48#8, 0x00#8) := by decide
/-- A15, A16. -/
theorem test_subn : withFlag 0x0#4 (after 0x8017 (pair 0x03#8 0x05#8)) = some (0x02#8, 0x01#8) ∧
    withFlag 0x0#4 (after 0x8017 (pair 0x05#8 0x03#8)) = some (0xFE#8, 0x00#8) := by decide
/-- A27, A28. -/
theorem test_subn_vf : regOf 0xF#4 (after 0x8F17 flagged) = some 0x10#8 ∧
    withFlag 0x1#4 (after 0x81F7 flagged) = some (0xF0#8, 0x00#8) := by decide
/-- A17, A18. -/
theorem test_shl : withFlag 0x0#4 (after 0x800E (pair 0x81#8 0x00#8)) = some (0x02#8, 0x01#8) ∧
    withFlag 0x0#4 (after 0x800E (pair 0x40#8 0x00#8)) = some (0x80#8, 0x00#8) := by decide
/-- A29, A30. -/
theorem test_shl_vf : regOf 0xF#4 (after 0x8F1E flagged) = some 0x00#8 ∧
    withFlag 0x1#4 (after 0x81FE flagged) = some (0x20#8, 0x01#8) := by decide

/-! ## Address register and memory transfers -/

/-- The bytes of memory from an address on, in a next state, and I. -/
def bytesOf (a n : Nat) (o : Option State) : Option (List Byte × Word) := o.map fun t => (t.mem.readBytes a n, t.i)

/-- M1. -/
theorem test_ldI : (after 0xA123 (start.setI 0xFFFF#16)).map (fun t => t.i) = some 0x0123#16 := by decide

/-- M3, M4. -/
theorem test_addI : (after 0xF01E ((start.setI 0x0FFF#16).setReg 0x0#4 0x01#8)).map (fun t => (t.i, t.vf)) =
      some (0x1000#16, 0x55#8) ∧
    (after 0xF01E ((start.setI 0xFFFF#16).setReg 0x0#4 0x02#8)).map (fun t => t.i) = some 0x0001#16 := by decide

/-- M5, for any glyph address function. -/
theorem test_ldF : exec (.ldF 0x2#4) (start.setReg 0x2#4 0x0A#8) =
    .next ((start.setReg 0x2#4 0x0A#8).setI (Config.glyphAddr 0x0A#8)).advance := by rfl

/-- M10. -/
theorem test_ldB_topOfMemory : bytesOf 0xFFD 3 (after 0xF033 ((start.setI 0xFFD#16).setReg 0x0#4 0x7B#8)) =
    some ([0x01#8, 0x02#8, 0x03#8], 0xFFD#16) := by decide

/-- M11: no byte is written. -/
theorem test_ldB_outOfBounds :
    (after 0xF033 ((start.setI 0xFFE#16).setReg 0x0#4 0x7B#8)).map (fun t => (ended t, t.mem.readBytes 0xFFE 2)) =
    some ((.halted, .outOfBounds, 0x200#16, 0xF033#16, true), [0x00#8, 0x00#8]) := by decide

/-- M13. -/
theorem test_ldMemVx_topOfMemory : bytesOf 0xFFE 2 (after 0xF155 ((pair 0xAA#8 0xBB#8).setI 0xFFE#16)) =
    some ([0xAA#8, 0xBB#8], 0xFFE#16) := by decide

/-- M14: no byte is written. -/
theorem test_ldMemVx_outOfBounds :
    (after 0xF155 ((pair 0xAA#8 0xBB#8).setI 0xFFF#16)).map (fun t => (ended t, t.mem.read 0xFFF)) =
    some ((.halted, .outOfBounds, 0x200#16, 0xF155#16, true), 0x00#8) := by decide

/-- M16: V3 is not loaded. -/
theorem test_ldVxMem :
    (after 0xF265 (poke 0x300 [1#8, 2#8, 3#8, 4#8] (start.setI 0x300#16))).map (fun t => (t.regsUpTo 0x3#4, t.i)) =
    some ([1#8, 2#8, 3#8, 0#8], 0x300#16) := by decide

/-- M19: the address is not wrapped. -/
theorem test_ldVxMem_outOfBounds : (after 0xF065 (start.setI 0xFFFF#16)).map ended =
    some (.halted, .outOfBounds, 0x200#16, 0xF065#16, true) := by decide

/-! ## Display -/

/-- Pixels of a next state, and VF. -/
def pixelsOf (ps : List (Nat × Nat)) (o : Option State) : Option (List Bool × Byte) :=
  o.map fun t => (ps.map (fun p => t.fb.pixel p.1 p.2), t.vf)

/-- I = 0x300 and sprite bytes there, V0 = x, V1 = y, VF = 0x55. -/
def sprite (bs : List Byte) (x y : Byte) : State := poke 0x300 bs ((pair x y).setI 0x300#16)

/-- D1 and D2: a sprite wraps at the right and at the bottom edge. -/
theorem test_drw_wraps :
    pixelsOf [(59, 0), (60, 0), (63, 0), (0, 0), (3, 0), (4, 0)] (after 0xD011 (sprite [0xFF#8] 0x3C#8 0x00#8)) =
      some ([false, true, true, true, true, false], 0x00#8) ∧
    pixelsOf [(0, 31), (0, 0), (1, 0)] (after 0xD012 (sprite [0x80#8, 0x80#8] 0x00#8 0x1F#8)) =
      some ([true, true, false], 0x00#8) := by decide

/-- D4 and D5: a collision is a 1 bit on a set pixel. -/
theorem test_drw_collides :
    pixelsOf [(0, 0)] (after 0xD011 ((sprite [0x80#8] 0x00#8 0x00#8).setFb (Framebuffer.clear.toggle 0 0))) =
      some ([false], 0x01#8) ∧
    pixelsOf [(0, 0), (1, 0)] (after 0xD011 ((sprite [0x80#8] 0x00#8 0x00#8).setFb (Framebuffer.clear.toggle 1 0))) =
      some ([true, true], 0x00#8) := by decide

/-- D10. -/
theorem test_cls : pixelsOf [(5, 7)] (after 0x00E0 (start.setFb (Framebuffer.clear.toggle 5 7))) =
    some ([false], 0x55#8) := by decide

/-! ## Keys and timers -/

/-- V4 = 5. -/
def key5 : State := start.setReg 0x4#4 0x05#8

/-- T1. -/
theorem test_skp_down (h : Config.keyDown 0 0x05#8 = true) : pcOf (went (exec (.skp 0x4#4) key5)) = some 0x204#16 := by
  have e : keyDown (key5.reg 0x4#4) key5 = (some true, { key5 with keyDownCalls := 1 }) := by rw [← h]; rfl
  show pcOf (went (execSkp 0x4#4 key5)) = _
  unfold execSkp; rw [e]; rfl

/-- T4. -/
theorem test_sknp_down (h : Config.keyDown 0 0x05#8 = true) :
    pcOf (went (exec (.sknp 0x4#4) key5)) = some 0x202#16 := by
  have e : keyDown (key5.reg 0x4#4) key5 = (some true, { key5 with keyDownCalls := 1 }) := by rw [← h]; rfl
  show pcOf (went (execSknp 0x4#4 key5)) = _
  unfold execSknp; rw [e]; rfl

/-- T5 and T6: no input source. -/
theorem test_keySkips_detached : pcOf (after 0xE49E { start with inputAttached := false }) = some 0x202#16 ∧
    pcOf (after 0xE4A1 { start with inputAttached := false }) = some 0x202#16 := by decide

/-- T9 and T10: the counter written, whatever ticks fell before. -/
theorem test_timers_written : (after 0xF015 (start.setReg 0x0#4 0x3C#8)).map (fun t => (t.dt, t.pc)) =
      some (0x3C#8, 0x202#16) ∧
    (after 0xF118 (start.setReg 0x1#4 0x10#8)).map (fun t => t.st) = some 0x10#8 := by decide

/-- T8: FX07 reads the counter as it stands. -/
theorem test_ldVxDt :
    regOf 0x2#4 (went (exec (.ldVxDt 0x2#4) { start with dt := 0x3C#8 })) = some 0x3C#8 := by decide

/-- P6 with one tick between its steps 4 and 5: step 5 reads 6 where FX15 wrote 7. -/
theorem test_tick_between_steps (h : Config.ticks 0 = 1) :
    regOf 0x1#4 (after 0xF107 { start with dt := 7#8 }) = some 6#8 := by
  have e : betweenSteps (State.withFetchWord { start with dt := 7#8 } 16 0xF107) =
      { State.withFetchWord { start with dt := 7#8 } 16 0xF107 with dt := 6#8, tickDraws := 1 } := by
    show ({ elapse (Config.ticks 0) _ with tickDraws := 1 } : State) = _
    rw [h]; rfl
  unfold after step; rw [e]; rfl

/-- R85: a tick between two steps of the engine, FX15 and FX07, where V0 = 7. -/
theorem test_transitions :
    regOf 0x1#4 (went (transitions [.step, .tick, .step]
      (poke 0x200 [0xF0#8, 0x15#8, 0xF1#8, 0x07#8] (start.setReg 0x0#4 7#8)))) = some 6#8 := by decide

/-- T15. -/
theorem test_tick : (tick { start with dt := 2#8 }).dt = 1#8 ∧ (tick (tick { start with dt := 2#8 })).dt = 0#8 ∧
    (tick (tick (tick { start with dt := 2#8 }))).dt = 0#8 ∧ (tick { start with dt := 2#8 }).st = 0#8 := by decide

/-- T11. -/
theorem test_ldVxK : (after 0xF30A start).map (fun t => (t.runState, t.waitX, t.pc)) =
    some (.awaitKey, 0x3#4, 0x200#16) := by decide

/-- T13, by the answer of the port. -/
theorem test_keyWait_key (h : Config.nextKey 0 = some 0xB#4) :
    keyWaitStep (start.beginWait 0x3#4) =
      .next ({ start.beginWait 0x3#4 with nextKeyCalls := 1 }.setReg 0x3#4 0x0B#8).advance.resume := by
  have : nextKey (start.beginWait 0x3#4) = (some 0xB#4, { start.beginWait 0x3#4 with nextKeyCalls := 1 }) := by
    rw [← h]; rfl
  unfold keyWaitStep; rw [this]; rfl

/-- T14. -/
theorem test_keyWait_detached :
    engineStep { start.beginWait 0x3#4 with inputAttached := false } =
      .next { start.beginWait 0x3#4 with inputAttached := false } := by rfl

/-! ## The host's ports -/

/-- S12 at a boundary: the last byte of memory can be loaded, the one after it not. -/
theorem test_load_boundary : (match load 0xFFE [1#8, 2#8] State.reset with
      | .ok t => t.mem.readBytes 0xFFE 2
      | .error _ => []) = [1#8, 2#8] ∧
    load 0xFFE [1#8, 2#8, 3#8] State.reset = .error .loadTooLarge := by decide

/-- R40, R145: reset leaves HALTED, and the status read says so. -/
theorem test_hostReset_status : (hostReset (raiseHalt .stackUnderflow (some 0x00EE#16) start)).status =
    ⟨0#2, 0#3, 0x200#16, 0x0000#16, false, 0x0#4⟩ := by decide

/-- T11 as the host reads it (R34, R40): AWAIT_KEY is 1, and WAIT_X is 3. -/
theorem test_status_waitX : (hostStep (start.withFetchWord 16 0xF30A)).map (fun p => p.2) =
    some ⟨1#2, 0#3, 0x200#16, 0x0000#16, false, 0x3#4⟩ := by decide

/-! ## Witnesses: states and operands that meet the hypotheses of each obligation

`test_hyp_<Name>` is for `Obligations.<Name>`; where a statement has several clauses, each has its own part, at
a boundary value. -/

/-- The word stored at PC, for the obligations that read it there. -/
def wordAt (s : State) : Nat := 256 * (s.mem.read s.pc.toNat).toNat + (s.mem.read (s.pc.toNat + 1)).toNat

theorem test_hyp_DecodeInvertsEncode : (Instr.sys 0xFFF#12).wellFormed = true ∧ (Instr.shr 0xF#4 0xF#4).wellFormed = true := by
  decide

theorem test_hyp_EncodeRecoversTheDecodedWord :
    decode 0x8FF6#16 = .instr (.shr 0xF#4 0xF#4) ∧ decode 0x8FFE#16 = .instr (.shl 0xF#4 0xF#4) ∧
    decode 0xFF65#16 = .instr (.ldVxMem 0xF#4) := by decide

/-- The last word of memory. -/
theorem test_hyp_StepRunsTheInstructionAtPc : ∃ (s : State) (w : Word) (i : Instr), s.runState = .running ∧
    s.pc.toNat ≤ 0xFFE ∧ w.toNat = wordAt s ∧ decode w = .instr i :=
  ⟨(start.setPc 0xFFE#16).withFetchWord 16 0x6001, 0x6001#16, .ldImm 0x0#4 0x01#8, by decide⟩

theorem test_hyp_UnknownOpcodeReportsAndAdvances : ∃ (s : State) (w : Word), s.runState = .running ∧
    s.pc.toNat ≤ 0xFFE ∧ w.toNat = wordAt s ∧ decode w = .unknown w :=
  ⟨(start.setPc 0xFFE#16).withFetchWord 16 0xFFFF, 0xFFFF#16, by decide⟩

theorem test_hyp_FetchAtTheEndOfMemoryHalts :
    ((start.setPc 0xFFF#16).runState = .running ∧ 0xFFF ≤ (start.setPc 0xFFF#16).pc.toNat) ∧
    ((start.setPc 0x1000#16).runState = .running ∧ 0xFFF ≤ (start.setPc 0x1000#16).pc.toNat) := by decide

theorem test_hyp_HaltedIsAbsorbing : (raiseHalt .outOfBounds none start).runState = .halted := by decide

theorem test_hyp_KeyWaitStepPollsOnce :
    ((start.beginWait 0xF#4).runState = .awaitKey ∧ (start.beginWait 0xF#4).inputAttached = true) ∧
    ({ start.beginWait 0xF#4 with inputAttached := false }.runState = .awaitKey ∧
      { start.beginWait 0xF#4 with inputAttached := false }.inputAttached = false) := by decide

/-- One halt of each kind an instruction raises. -/
theorem test_hyp_HaltingInstructionHasNoOtherEffect :
    ∃ t u r, start.runState = .running ∧ exec .ret start = .next t ∧ t.runState = .halted ∧
      exec (.ldB 0x0#4) (start.setI 0xFFE#16) = .next u ∧ u.runState = .halted ∧
      exec (.call 0x300#12) { start with stackDepth := .bounded 0 } = .next r ∧ r.runState = .halted :=
  ⟨_, _, _, by rfl, by rfl, by rfl, by rfl, by rfl, by rfl, by rfl⟩

/-- Both sides of each condition: SP = 0 and 1, SP = STACK_DEPTH and one less, the last address 0xFFF and 0x1000,
N = 0. -/
theorem test_hyp_InstructionsHaltExactlyOnTheirCondition :
    start.runState = .running ∧ start.sp = 0 ∧ (start.setStack [0x202#16]).sp = 1 ∧
    start.stackDepth ≠ .bounded start.sp ∧
    { start with stackDepth := .bounded 0 }.stackDepth = .bounded { start with stackDepth := .bounded 0 }.sp ∧
    (0 < (0x1#4).toNat ∧ 0x1000 ≤ (start.setI 0x1000#16).base + (0x1#4).toNat - 1) ∧
    ¬ (0 < (0x1#4).toNat ∧ 0x1000 ≤ (start.setI 0xFFF#16).base + (0x1#4).toNat - 1) ∧
    ¬ (0 < (0x0#4).toNat) ∧
    0x1000 ≤ (start.setI 0xFFE#16).base + 2 ∧ ¬ 0x1000 ≤ (start.setI 0xFFD#16).base + 2 ∧
    0x1000 ≤ (start.setI 0xFF1#16).base + (0xF#4).toNat ∧ ¬ 0x1000 ≤ (start.setI 0xFF0#16).base + (0xF#4).toNat := by
  decide

theorem test_hyp_CallPushesTheReturnAddress :
    Instr.sys 0x000#12 ∈ [Instr.sys 0x000#12, Instr.call 0x000#12] ∧
    Instr.call 0x000#12 ∈ [Instr.sys 0x000#12, Instr.call 0x000#12] ∧
    start.stackDepth ≠ .bounded start.sp ∧
    { start with stackDepth := .unbounded }.stackDepth ≠ .bounded start.sp := by decide

theorem test_hyp_CallOnAFullStackHalts :
    (Instr.sys 0x0E1#12, 0x0E1) ∈ [(Instr.sys 0x0E1#12, 0x0E1), (Instr.call 0x0E1#12, 0x20E1)] ∧
    (Instr.call 0x0E1#12, 0x20E1) ∈ [(Instr.sys 0x0E1#12, 0x0E1), (Instr.call 0x0E1#12, 0x20E1)] ∧
    (start.setStack (List.replicate 16 0x202#16)).stackDepth =
      .bounded (start.setStack (List.replicate 16 0x202#16)).sp := by decide

/-- The cases of `ReturnPopsOrUnderflows`, which has no hypothesis: an empty and a non-empty stack. -/
theorem test_hyp_ReturnPopsOrUnderflows : start.stack = [] ∧ (start.setStack [0x1000#16]).stack = [0x1000#16] := by
  decide

theorem test_hyp_ReturnResumesAfterTheCall : ∃ t r, exec (.call 0x300#12) start = .next t ∧
    start.stackDepth ≠ .bounded start.sp ∧ r.stack = t.stack ∧ r ≠ t :=
  ⟨_, start.setStack [0x202#16], rfl, by decide, rfl, by decide⟩

theorem test_hyp_ImmediateSkips :
    let l := [(Instr.seImm 0xF#4 0x55#8, decide (start.reg 0xF#4 = 0x55#8), 0x3F55#16),
      (Instr.sneImm 0xF#4 0x55#8, decide (start.reg 0xF#4 ≠ 0x55#8), 0x4F55#16)]
    (Instr.seImm 0xF#4 0x55#8, true, 0x3F55#16) ∈ l ∧ (Instr.sneImm 0xF#4 0x55#8, false, 0x4F55#16) ∈ l ∧
      0x3#4 ++ 0xF#4 ++ 0x55#8 = 0x3F55#16 ∧ 0x4#4 ++ 0xF#4 ++ 0x55#8 = 0x4F55#16 := by decide

theorem test_hyp_RegisterSkips :
    let l := [(Instr.seReg 0xF#4 0x0#4, decide (start.reg 0xF#4 = start.reg 0x0#4), 0x5F00#16),
      (Instr.sneReg 0xF#4 0x0#4, decide (start.reg 0xF#4 ≠ start.reg 0x0#4), 0x9F00#16)]
    (Instr.seReg 0xF#4 0x0#4, false, 0x5F00#16) ∈ l ∧ (Instr.sneReg 0xF#4 0x0#4, true, 0x9F00#16) ∈ l ∧
      0x5#4 ++ 0xF#4 ++ 0x0#4 ++ 0x0#4 = 0x5F00#16 ∧ 0x9#4 ++ 0xF#4 ++ 0x0#4 ++ 0x0#4 = 0x9F00#16 := by decide

theorem test_hyp_LogicWritesTheDestinationAlone :
    let s := pair 0xF0#8 0x3C#8
    let l := [(Instr.or 0x0#4 0x1#4, s.reg 0x0#4 ||| s.reg 0x1#4), (Instr.and 0x0#4 0x1#4, s.reg 0x0#4 &&& s.reg 0x1#4),
      (Instr.xor 0x0#4 0x1#4, s.reg 0x0#4 ^^^ s.reg 0x1#4)]
    (Instr.or 0x0#4 0x1#4, 0xFC#8) ∈ l ∧ (Instr.and 0x0#4 0x1#4, 0x30#8) ∈ l ∧
      (Instr.xor 0x0#4 0x1#4, 0xCC#8) ∈ l := by decide

/-- Equal operands, where the borrow is at its boundary. -/
theorem test_hyp_SubtractSetsNoBorrow :
    let s := pair 0x07#8 0x07#8
    let l := [(Instr.sub 0x0#4 0x1#4, (s.reg 0x0#4).toNat, (s.reg 0x1#4).toNat, 0x8015#16),
      (Instr.subn 0x0#4 0x1#4, (s.reg 0x1#4).toNat, (s.reg 0x0#4).toNat, 0x8017#16)]
    (Instr.sub 0x0#4 0x1#4, 7, 7, 0x8015#16) ∈ l ∧ (Instr.subn 0x0#4 0x1#4, 7, 7, 0x8017#16) ∈ l ∧
      0x8#4 ++ 0x0#4 ++ 0x1#4 ++ 0x5#4 = 0x8015#16 ∧ 0x8#4 ++ 0x0#4 ++ 0x1#4 ++ 0x7#4 = 0x8017#16 := by decide

theorem test_hyp_ShiftsMoveOneBitIntoVf :
    let s := pair 0x81#8 0x00#8
    let l := [(Instr.shr 0x0#4 0x1#4, (s.reg 0x0#4).toNat / 2, (s.reg 0x0#4).toNat % 2),
      (Instr.shl 0x0#4 0x1#4, (s.reg 0x0#4).toNat * 2 % 256, (s.reg 0x0#4).toNat / 128)]
    (Instr.shr 0x0#4 0x1#4, 0x40, 1) ∈ l ∧ (Instr.shl 0x0#4 0x1#4, 0x02, 1) ∈ l := by decide

/-- The last base that fits. -/
theorem test_hyp_DecimalDigitsAreStored :
    (start.setI 0xFFD#16).mem.wf = true ∧ (start.setI 0xFFD#16).base + 2 < 0x1000 := by decide

/-- The last base that fits, for all 16 registers. -/
theorem test_hyp_RegistersAreStored :
    (start.setI 0xFF0#16).mem.wf = true ∧ (start.setI 0xFF0#16).base + (0xF#4).toNat < 0x1000 := by decide

theorem test_hyp_RegistersAreLoaded : (start.setI 0xFF0#16).base + (0xF#4).toNat < 0x1000 := by decide

/-- The first address that does not fit, in each instruction. -/
theorem test_hyp_TransfersOutOfBoundsHalt :
    let l := [(Instr.ldB 0x1#4, 3), (Instr.ldMemVx 0x1#4, (0x1#4).toNat + 1), (Instr.ldVxMem 0x1#4, (0x1#4).toNat + 1),
      (Instr.drw 0x1#4 0x2#4 0x1#4, (0x1#4).toNat)]
    ((Instr.ldB 0x1#4, 3) ∈ l ∧ 0 < 3 ∧ 0x1000 ≤ (start.setI 0xFFE#16).base + (3 - 1)) ∧
    ((Instr.ldMemVx 0x1#4, 2) ∈ l ∧ (Instr.ldVxMem 0x1#4, 2) ∈ l ∧ 0 < 2 ∧
      0x1000 ≤ (start.setI 0xFFF#16).base + (2 - 1)) ∧
    ((Instr.drw 0x1#4 0x2#4 0x1#4, 1) ∈ l ∧ 0 < 1 ∧ 0x1000 ≤ (start.setI 0x1000#16).base + (1 - 1)) := by decide

/-- FX55 at 0x200 stores 0x00E0 at 0x202. -/
theorem test_hyp_StoredCodeIsExecuted :
    let s := (pair 0x00#8 0xE0#8).setI 0x202#16
    s.mem.wf = true ∧ s.runState = .running ∧ s.base = s.pc.toNat + 2 ∧ 1 ≤ (0x1#4).toNat ∧
    s.base + (0x1#4).toNat < 0x1000 ∧
    (0x00E0#16).toNat = 256 * (s.reg 0x0#4).toNat + (s.reg 0x1#4).toNat ∧ decode 0x00E0#16 = .instr .cls := by decide

/-- N = 0 with I out of bounds, and N = 15 with the last row at 0xFFF. -/
theorem test_hyp_DrawXorsTheSprite :
    ((0x0#4).toNat = 0 ∨ (start.setI 0xFFFF#16).base + ((0x0#4).toNat - 1) < 0x1000) ∧
    ((0xF#4).toNat = 0 ∨ (start.setI 0xFF1#16).base + ((0xF#4).toNat - 1) < 0x1000) ∧
    (List.range (0x1#4).toNat).map (fun r => (sprite [0x80#8] 0#8 0#8).mem.read ((sprite [0x80#8] 0#8 0#8).base + r)) =
      [0x80#8] := by decide

/-- A pixel the sprite covers and one it does not. -/
theorem test_hyp_DrawXorsTheSprite_covers :
    SpriteCovers 63 31 [0x40#8] 0 31 ∧ ¬ SpriteCovers 63 31 [0x40#8] 63 31 := by
  refine ⟨⟨0, 1, by decide⟩, ?_⟩
  rintro ⟨r, w, hr, hw, hb, hx, -⟩
  have : r = 0 := by simp at hr; exact hr
  subst this
  have : w = 0 := by omega
  subst this
  revert hb; decide

theorem test_hyp_DrawingTwiceRestoresTheScreen :
    (0x0#4) ≠ 0xF#4 ∧ (0xE#4) ≠ 0xF#4 ∧
    ((0xF#4).toNat = 0 ∨ (start.setI 0xFF1#16).base + ((0xF#4).toNat - 1) < 0x1000) := by decide

theorem test_hyp_KeySkips :
    (Instr.skp 0xF#4, true) ∈ [(Instr.skp 0xF#4, true), (Instr.sknp 0xF#4, false)] ∧
    (Instr.sknp 0xF#4, false) ∈ [(Instr.skp 0xF#4, true), (Instr.sknp 0xF#4, false)] ∧
    start.inputAttached = true ∧ { start with inputAttached := false }.inputAttached = false := by decide

/-- VF as a flag and VF as the destination. -/
theorem test_hyp_VfIsWrittenOnlyAsFlagOrDestination :
    ∃ t u, exec (.addReg 0x0#4 0x1#4) start = .next t ∧ t.vf ≠ start.vf ∧
      exec (.ldImm 0xF#4 0x00#8) start = .next u ∧ u.vf ≠ start.vf :=
  ⟨_, _, rfl, by decide, rfl, by decide⟩

theorem test_hyp_IndexIsWrittenOnlyByItsInstructions :
    ∃ t u, exec (.ldI 0x300#12) start = .next t ∧ t.i ≠ start.i ∧
      exec (.addI 0xF#4) start = .next u ∧ u.i ≠ start.i :=
  ⟨_, _, rfl, by decide, rfl, by decide⟩

theorem test_hyp_StackIsTouchedOnlyByCallsAndReturn :
    ∃ t u r, exec (.call 0x300#12) start = .next t ∧ t.stack ≠ start.stack ∧
      exec (.sys 0x300#12) start = .next u ∧ u.stack ≠ start.stack ∧
      exec .ret (start.setStack [0x202#16]) = .next r ∧ r.stack ≠ (start.setStack [0x202#16]).stack :=
  ⟨_, _, _, rfl, by decide, rfl, by decide, rfl, by decide⟩

/-- A screen with the pixel (0, 0) set. -/
def dotted : State := (sprite [0x80#8] 0x00#8 0x00#8).setFb (Framebuffer.clear.toggle 0 0)

theorem test_hyp_PixelsAreWrittenOnlyByClearAndDraw :
    ∃ t u, exec .cls dotted = .next t ∧ t.fb.pixel 0 0 ≠ dotted.fb.pixel 0 0 ∧
      exec (.drw 0x0#4 0x1#4 0x1#4) dotted = .next u ∧ u.fb.pixel 0 0 ≠ dotted.fb.pixel 0 0 :=
  ⟨_, _, rfl, by decide, rfl, by decide⟩

theorem test_hyp_MemoryIsWrittenOnlyByStores :
    ∃ t u, (start.setI 0xFFD#16).mem.wf = true ∧
      exec (.ldB 0xF#4) (start.setI 0xFFD#16) = .next t ∧
      t.mem.read 0xFFF ≠ (start.setI 0xFFD#16).mem.read 0xFFF ∧
      exec (.ldMemVx 0xF#4) (start.setI 0xFF0#16) = .next u ∧
      u.mem.read 0xFFF ≠ (start.setI 0xFF0#16).mem.read 0xFFF :=
  ⟨_, _, by decide, rfl, by decide, rfl, by decide⟩

theorem test_hyp_PortsAreCalledOnlyByTheirInstructions :
    ∃ t u r k, exec (.rnd 0x0#4 0x00#8) start = .next t ∧ exec (.ldDtVx 0x0#4) start = .next u ∧
      exec (.skp 0x0#4) start = .next r ∧ exec (.sknp 0x0#4) { start with inputAttached := false } = .next k :=
  ⟨_, _, _, _, rfl, rfl, rfl, rfl⟩

/-- A halt and a next instruction. -/
theorem test_hyp_NextPcFollowsTheTable :
    ∃ t u, start.runState = .running ∧ exec .ret start = .next t ∧ t.runState = .halted ∧
      exec .cls start = .next u ∧ u.runState ≠ .halted :=
  ⟨_, _, by decide, rfl, by decide, rfl, by decide⟩

theorem test_hyp_StatusRegistersAreInvisibleToPrograms :
    ∃ t u, exec (.ldVxK 0x3#4) start = .next t ∧ exec .ret start = .next u := ⟨_, _, rfl, rfl⟩

theorem test_hyp_ConfigurationIsConstant : ∃ t, step (start.withFetchWord 16 0x00E0) = .next t :=
  ⟨(betweenSteps (start.withFetchWord 16 0x00E0)).advance, rfl⟩

theorem test_hyp_SelfJumpChangesNothing :
    let s := start.withFetchWord 16 0x1200
    s.runState = .running ∧ s.pc.toNat ≤ 0xFFE ∧ (0x1200#16).toNat = wordAt s ∧
    decode 0x1200#16 = .instr (.jp 0x200#12) ∧ (0x200#12).toNat = s.pc.toNat := by decide

/-- One call deep, with the word 00EE stored at PC. -/
def inCall : State := (start.setStack [0x1000#16]).withFetchWord 16 0x00EE

/-- A state that meets the invariant and is not the reset state. -/
theorem test_hyp_EveryStepKeepsTheInvariant : ∃ s t, Inv s ∧ s ≠ State.reset ∧ step s = .next t := by
  refine ⟨inCall, ((betweenSteps inCall).setStack []).setPc 0x1000#16, ?_, by decide, rfl⟩
  constructor
  · decide
  · decide
  · intro n h
    have e : StackDepth.bounded 16 = .bounded n := h
    exact StackDepth.bounded.inj e ▸ (show 1 ≤ 16 by decide)
  · intro a h
    rw [List.mem_singleton.mp (show a ∈ [0x1000#16] from h)]; decide
  · decide
  · decide
  · decide
  · decide
  · decide
  · decide
  · decide
  · decide

/-- The two forms of a state after reset: at power-on, and by the host from a halted state. -/
theorem test_hyp_ResetLeavesTheResetValues :
    State.reset = hostReset State.reset ∧ (raiseHalt .outOfBounds none dotted) ≠ hostReset dotted := by decide

/-- Bytes that just fit, and one byte too many. -/
theorem test_hyp_LoadCopiesOrFails :
    State.reset.mem.wf = true ∧ ¬ (0xFFE + [1#8, 2#8].length > 4096) ∧ 0xFFE + [1#8, 2#8, 3#8].length > 4096 := by
  decide

/-! ## Placing a word -/

/-- The word is what the next step runs, from reset and from a state that could not fetch. -/
theorem test_withFetchWord :
    step (State.reset.withFetchWord 16 0x6A42) =
      exec (.ldImm 0xA#4 0x42#8) { State.reset.withFetchWord 16 0x6A42 with tickDraws := 1 } ∧
    (State.reset.withFetchWord 16 0x6A42).pc = State.reset.pc ∧
    ((raiseHalt .endOfMemory none (start.setPc 0xFFF#16)).withFetchWord 16 0x6A42).pc = 0x200#16 :=
  ⟨rfl, rfl, rfl⟩

end Sys2Proof.Tests
end

/-! # The opcode map's rows (30_encoding.md R70, R71, R73)

A word that decodes to an instruction is the word of that instruction, and a word in a row of the opcode map is the
word of the row's instruction with the word's own fields as operands. -/

namespace Sys2Proof

/-! ## A word some of whose fields are known (R67) -/

section KnownFields
variable {w : Word} {op : Nibble} {n : Nibble} {nn : Byte}

theorem packAddr_of_fieldOp (hop : fieldOp w = op) : packAddr op (fieldNNN w) = w :=
  hop ▸ packAddr_fields w

theorem packRegByte_of_fields (hop : fieldOp w = op) (hnn : fieldNN w = nn) : packRegByte op (fieldX w) nn = w :=
  hop ▸ hnn ▸ packRegByte_fields w

theorem packRegReg_of_fields (hop : fieldOp w = op) (hn : fieldN w = n) :
    packRegReg op (fieldX w) (fieldY w) n = w :=
  hop ▸ hn ▸ packRegReg_fields w

theorem packAddr_inj {a b : Addr12} : packAddr op a = packAddr op b ↔ a = b :=
  ⟨fun h => by simpa using congrArg fieldNNN h, congrArg _⟩

/-! ## A word with a known value under a mask (R71) -/

theorem fieldOp_of_and_F000 (h : w &&& 0xF000#16 = packAddr op 0#12) : fieldOp w = op := by
  rw [← packAddr_fields w, packAddr_and_F000] at h
  simpa using congrArg fieldOp h

theorem packRegReg_of_and_F00F (h : w &&& 0xF00F#16 = packRegReg op 0#4 0#4 n) :
    packRegReg op (fieldX w) (fieldY w) n = w := by
  rw [← packRegReg_fields w, packRegReg_and_F00F] at h
  exact packRegReg_of_fields (by simpa using congrArg fieldOp h) (by simpa using congrArg fieldN h)

theorem packRegByte_of_and_F0FF (h : w &&& 0xF0FF#16 = packRegByte op 0#4 nn) :
    packRegByte op (fieldX w) nn = w := by
  rw [← packRegByte_fields w, packRegByte_and_F0FF] at h
  exact packRegByte_of_fields (by simpa using congrArg fieldOp h) (by simpa using congrArg fieldNN h)

end KnownFields

/-! ## An instruction's row (R71) -/

/-- Every instruction's word lies in its own row. -/
theorem encode_and_opcodeRow (i : Instr) : encode i &&& (opcodeRow i).1 = (opcodeRow i).2 := by
  cases i
  exacts [Laws.RowMatch.cls, Laws.RowMatch.ret, Laws.RowMatch.sys _, Laws.RowMatch.jp _, Laws.RowMatch.call _,
    Laws.RowMatch.seImm _ _, Laws.RowMatch.sneImm _ _, Laws.RowMatch.seReg _ _, Laws.RowMatch.ldImm _ _,
    Laws.RowMatch.addImm _ _, Laws.RowMatch.ldReg _ _, Laws.RowMatch.or _ _, Laws.RowMatch.and _ _,
    Laws.RowMatch.xor _ _, Laws.RowMatch.addReg _ _, Laws.RowMatch.sub _ _, Laws.RowMatch.shr _ _,
    Laws.RowMatch.subn _ _, Laws.RowMatch.shl _ _, Laws.RowMatch.sneReg _ _, Laws.RowMatch.ldI _,
    Laws.RowMatch.jpV0 _, Laws.RowMatch.rnd _ _, Laws.RowMatch.drw _ _ _, Laws.RowMatch.skp _,
    Laws.RowMatch.sknp _, Laws.RowMatch.ldVxDt _, Laws.RowMatch.ldVxK _, Laws.RowMatch.ldDtVx _,
    Laws.RowMatch.ldStVx _, Laws.RowMatch.addI _, Laws.RowMatch.ldF _, Laws.RowMatch.ldB _,
    Laws.RowMatch.ldMemVx _, Laws.RowMatch.ldVxMem _]

/-- The SYS row's exclusion is all there is to well-formedness (R70). -/
theorem wellFormed_iff_not_excluded (i : Instr) :
    i.wellFormed = true ↔
      (opcodeRow i = (0xF000#16, 0x0000#16) → encode i ≠ 0x00E0#16 ∧ encode i ≠ 0x00EE#16) := by
  cases i with
  | sys nnn =>
    have h0E0 : encode (.sys nnn) = 0x00E0#16 ↔ nnn = 0x0E0#12 := packAddr_inj (b := 0x0E0#12)
    have h0EE : encode (.sys nnn) = 0x00EE#16 ↔ nnn = 0x0EE#12 := packAddr_inj (b := 0x0EE#12)
    simp [Instr.wellFormed, opcodeRow, h0E0, h0EE]
  | _ => simp [Instr.wellFormed, opcodeRow]

/-- The instruction of the same row whose operands are the fields of `w` (R66, R71). -/
def Instr.withFieldsOf (w : Word) : Instr → Instr
  | .cls => .cls
  | .ret => .ret
  | .sys _ => .sys (fieldNNN w)
  | .jp _ => .jp (fieldNNN w)
  | .call _ => .call (fieldNNN w)
  | .seImm _ _ => .seImm (fieldX w) (fieldNN w)
  | .sneImm _ _ => .sneImm (fieldX w) (fieldNN w)
  | .seReg _ _ => .seReg (fieldX w) (fieldY w)
  | .ldImm _ _ => .ldImm (fieldX w) (fieldNN w)
  | .addImm _ _ => .addImm (fieldX w) (fieldNN w)
  | .ldReg _ _ => .ldReg (fieldX w) (fieldY w)
  | .or _ _ => .or (fieldX w) (fieldY w)
  | .and _ _ => .and (fieldX w) (fieldY w)
  | .xor _ _ => .xor (fieldX w) (fieldY w)
  | .addReg _ _ => .addReg (fieldX w) (fieldY w)
  | .sub _ _ => .sub (fieldX w) (fieldY w)
  | .shr _ _ => .shr (fieldX w) (fieldY w)
  | .subn _ _ => .subn (fieldX w) (fieldY w)
  | .shl _ _ => .shl (fieldX w) (fieldY w)
  | .sneReg _ _ => .sneReg (fieldX w) (fieldY w)
  | .ldI _ => .ldI (fieldNNN w)
  | .jpV0 _ => .jpV0 (fieldNNN w)
  | .rnd _ _ => .rnd (fieldX w) (fieldNN w)
  | .drw _ _ _ => .drw (fieldX w) (fieldY w) (fieldN w)
  | .skp _ => .skp (fieldX w)
  | .sknp _ => .sknp (fieldX w)
  | .ldVxDt _ => .ldVxDt (fieldX w)
  | .ldVxK _ => .ldVxK (fieldX w)
  | .ldDtVx _ => .ldDtVx (fieldX w)
  | .ldStVx _ => .ldStVx (fieldX w)
  | .addI _ => .addI (fieldX w)
  | .ldF _ => .ldF (fieldX w)
  | .ldB _ => .ldB (fieldX w)
  | .ldMemVx _ => .ldMemVx (fieldX w)
  | .ldVxMem _ => .ldVxMem (fieldX w)

@[simp] theorem opcodeRow_withFieldsOf (w : Word) (i : Instr) : opcodeRow (i.withFieldsOf w) = opcodeRow i := by
  cases i <;> rfl

/-- A word that matches a row is the word of the row's instruction with the word's fields. -/
theorem encode_withFieldsOf {w : Word} {i : Instr} (h : w &&& (opcodeRow i).1 = (opcodeRow i).2) :
    encode (i.withFieldsOf w) = w := by
  cases i with
  | cls | ret => exact h.symm.trans BitVec.and_allOnes
  | sys _ | jp _ | call _ | ldI _ | jpV0 _ => exact packAddr_of_fieldOp (fieldOp_of_and_F000 h)
  | seImm _ _ | sneImm _ _ | ldImm _ _ | addImm _ _ | rnd _ _ =>
    exact packRegByte_of_fields (fieldOp_of_and_F000 h) rfl
  | drw _ _ _ => exact packRegReg_of_fields (fieldOp_of_and_F000 h) rfl
  | seReg _ _ | ldReg _ _ | or _ _ | and _ _ | xor _ _ | addReg _ _ | sub _ _ | shr _ _ | subn _ _ | shl _ _
  | sneReg _ _ => exact packRegReg_of_and_F00F h
  | skp _ | sknp _ | ldVxDt _ | ldVxK _ | ldDtVx _ | ldStVx _ | addI _ | ldF _ | ldB _ | ldMemVx _ | ldVxMem _ =>
    exact packRegByte_of_and_F0FF h

/-! ## What the decoder answers (R70) -/

theorem decode_encode {i : Instr} (h : i.wellFormed = true) : decode (encode i) = .instr i := by
  cases i with
  | cls | ret => rfl
  | sys nnn =>
    obtain ⟨h0E0, h0EE⟩ := (wellFormed_iff_not_excluded (.sys nnn)).mp h rfl
    simp only [encode] at h0E0 h0EE
    simp [encode, decode, decode0, h0E0, h0EE]
  | jp _ | call _ | ldI _ | jpV0 _ | seImm _ _ | sneImm _ _ | ldImm _ _ | addImm _ _ | rnd _ _ | drw _ _ _
  | seReg _ _ | sneReg _ _ => simp [encode, decode]
  | ldReg _ _ | or _ _ | and _ _ | xor _ _ | addReg _ _ | sub _ _ | shr _ _ | subn _ _ | shl _ _ =>
    simp [encode, decode, decode8]
  | skp _ | sknp _ => simp [encode, decode, decodeE]
  | ldVxDt _ | ldVxK _ | ldDtVx _ | ldStVx _ | addI _ | ldF _ | ldB _ | ldMemVx _ | ldVxMem _ =>
    simp [encode, decode, decodeF]

section Inversion
variable {w : Word} {i : Instr}

theorem decode0_instr (hop : fieldOp w = 0x0#4) (h : decode0 w = .instr i) : i.wellFormed = true ∧ encode i = w := by
  unfold decode0 at h
  split at h
  case isTrue h0E0 => cases h; exact ⟨rfl, h0E0.symm⟩
  case isFalse h0E0 =>
    split at h
    case isTrue h0EE => cases h; exact ⟨rfl, h0EE.symm⟩
    case isFalse h0EE =>
      cases h
      have hw : encode (.sys (fieldNNN w)) = w := packAddr_of_fieldOp hop
      exact ⟨(wellFormed_iff_not_excluded _).mpr fun _ => hw.symm ▸ ⟨h0E0, h0EE⟩, hw⟩

theorem decode8_instr (hop : fieldOp w = 0x8#4) (h : decode8 w = .instr i) : i.wellFormed = true ∧ encode i = w := by
  unfold decode8 at h
  split at h <;> cases h <;> exact ⟨rfl, packRegReg_of_fields hop ‹_›⟩

theorem decodeE_instr (hop : fieldOp w = 0xE#4) (h : decodeE w = .instr i) : i.wellFormed = true ∧ encode i = w := by
  unfold decodeE at h
  split at h <;> cases h <;> exact ⟨rfl, packRegByte_of_fields hop ‹_›⟩

theorem decodeF_instr (hop : fieldOp w = 0xF#4) (h : decodeF w = .instr i) : i.wellFormed = true ∧ encode i = w := by
  unfold decodeF at h
  split at h <;> cases h <;> exact ⟨rfl, packRegByte_of_fields hop ‹_›⟩

/-- A word that decodes to an instruction is that instruction's word (R70, R73). -/
theorem decode_instr (h : decode w = .instr i) : i.wellFormed = true ∧ encode i = w := by
  unfold decode at h
  split at h
  case h_1 hop => exact decode0_instr hop h
  case h_2 hop | h_3 hop | h_11 hop | h_12 hop => cases h; exact ⟨rfl, packAddr_of_fieldOp hop⟩
  case h_4 hop | h_5 hop | h_7 hop | h_8 hop | h_13 hop => cases h; exact ⟨rfl, packRegByte_of_fields hop rfl⟩
  case h_6 hop | h_10 hop =>
    split at h <;> cases h
    exact ⟨rfl, packRegReg_of_fields hop ‹_›⟩
  case h_9 hop => exact decode8_instr hop h
  case h_14 hop => cases h; exact ⟨rfl, packRegReg_of_fields hop rfl⟩
  case h_15 hop => exact decodeE_instr hop h
  case h_16 =>
    have hop : fieldOp w = 0xF#4 := by apply nibble_eq_F <;> assumption
    exact decodeF_instr hop h

end Inversion

/-- The decoder and the encoder are one relation, read in two directions (R70, R71). -/
theorem decode_eq_instr_iff {w : Word} {i : Instr} : decode w = .instr i ↔ i.wellFormed = true ∧ encode i = w :=
  ⟨decode_instr, fun ⟨hwf, hw⟩ => hw ▸ decode_encode hwf⟩

/-- Settles O4: a word in a row is the word of the row's instruction with the word's fields, and decoding inverts
encoding; conversely the decoded instruction's word is in its own row, and is not excluded. -/
theorem wordsDecodeToTheRowTheyMatch : Obligations.WordsDecodeToTheRowTheyMatch := by
  unfold Obligations.WordsDecodeToTheRowTheyMatch
  intro w i
  constructor
  · rintro ⟨hmatch, hexcluded⟩
    have hw : encode (i.withFieldsOf w) = w := encode_withFieldsOf hmatch
    have hwf : (i.withFieldsOf w).wellFormed = true := by
      rw [wellFormed_iff_not_excluded, opcodeRow_withFieldsOf, hw]
      exact hexcluded
    exact ⟨i.withFieldsOf w, decode_eq_instr_iff.mpr ⟨hwf, hw⟩, opcodeRow_withFieldsOf w i⟩
  · rintro ⟨j, hj, hrow⟩
    obtain ⟨hwf, rfl⟩ := decode_eq_instr_iff.mp hj
    rw [← hrow]
    exact ⟨encode_and_opcodeRow j, (wellFormed_iff_not_excluded j).mp hwf⟩

end Sys2Proof

/-! # The unknown word (40_execution_loop.md R77, R83)

A frame grows one update at a time: an update may change its own part when the frame lists it, and changes no other. -/

namespace Sys2Proof

open Machine

/-! ## What the updates of a state add to a frame -/

section Frames
variable {regs : List Reg} {parts : List Part} {s t : State} {p : Part}

theorem Part.kept_refl (p : Part) (s : State) : p.Kept s s := by
  cases p with
  | fb => exact fun _ _ => rfl
  | mem => exact fun _ => rfl
  | faultWord | parameters => exact ⟨rfl, rfl⟩
  | _ => rfl

theorem Part.kept_advance_iff (hp : p ≠ .pc) : p.Kept s t.advance ↔ p.Kept s t := by
  cases p with
  | pc => exact absurd rfl hp
  | _ => exact Iff.rfl

theorem Part.kept_emit_iff {e : Event} (hp : p ≠ .trace) : p.Kept s (t.emit e) ↔ p.Kept s t := by
  cases p with
  | trace => exact absurd rfl hp
  | _ => exact Iff.rfl

theorem OnlyChanges.refl (s : State) : OnlyChanges regs parts s s :=
  ⟨fun _ _ => rfl, fun p _ => p.kept_refl s⟩

theorem OnlyChanges.advance (h : OnlyChanges regs parts s t) (hpc : .pc ∈ parts) :
    OnlyChanges regs parts s t.advance := by
  obtain ⟨hregs, hparts⟩ := h
  exact ⟨hregs, fun p hp => (Part.kept_advance_iff (ne_of_mem_of_not_mem hpc hp).symm).mpr (hparts p hp)⟩

theorem OnlyChanges.emit (h : OnlyChanges regs parts s t) (htrace : .trace ∈ parts) (e : Event) :
    OnlyChanges regs parts s (t.emit e) := by
  obtain ⟨hregs, hparts⟩ := h
  exact ⟨hregs, fun p hp => (Part.kept_emit_iff (ne_of_mem_of_not_mem htrace hp).symm).mpr (hparts p hp)⟩

end Frames

/-- The fetched word is the one whose value the two bytes at PC spell, the first the high one (R77, R65). -/
theorem fetch_eq_ok {s : State} {w : Word} (hpc : s.pc.toNat ≤ 0xFFE)
    (hw : w.toNat = 256 * (s.mem.read s.pc.toNat).toNat + (s.mem.read (s.pc.toNat + 1)).toNat) :
    fetch s = .ok w := by
  have hbytes : w = wordOfBytes (s.mem.read s.pc.toNat) (s.mem.read (s.pc.toNat + 1)) :=
    BitVec.eq_of_toNat_eq (hw.trans (wordOfBytes_toNat _ _).symm)
  rcases fetch_cases s with ⟨hend, -⟩ | ⟨hlast, -⟩ | ⟨-, hfetch⟩
  · omega
  · omega
  · rw [hfetch, hbytes]

/-- Settles O7: the fetch gives the word of the two bytes at PC, and reporting it and advancing write the trace and PC
alone. -/
theorem unknownOpcodeReportsAndAdvances : Obligations.UnknownOpcodeReportsAndAdvances := by
  unfold Obligations.UnknownOpcodeReportsAndAdvances
  intro s w hrun hpc hw hunknown
  have hstep : engineStep s = .next (s.emit ⟨s.pc, w⟩).advance :=
    engineStep_unknown hrun (fetch_eq_ok hpc hw) hunknown
  have hframe : OnlyChanges [] [.pc, .trace] s (s.emit ⟨s.pc, w⟩).advance :=
    ((OnlyChanges.refl s).emit (by simp) _).advance (by simp)
  exact ⟨_, hstep, by simp, by simp, hframe⟩

end Sys2Proof

/-! # Control flow (41_control_flow.md R86-R95)

A jump, a skip and a return are updates of PC and the stack, so each obligation is the instruction's update, its word
from the encoder, and the frame of that update. -/

namespace Sys2Proof

open Machine

/-! ## What the updates of control flow add to a frame -/

section Frames
variable {regs : List Reg} {parts : List Part} {s t : State} {p : Part}

theorem Part.kept_setPc_iff {w : Word} (hp : p ≠ .pc) : p.Kept s (t.setPc w) ↔ p.Kept s t := by
  cases p with
  | pc => exact absurd rfl hp
  | _ => exact Iff.rfl

theorem Part.kept_setStack_iff {k : List Word} (hp : p ≠ .stack) : p.Kept s (t.setStack k) ↔ p.Kept s t := by
  cases p with
  | stack => exact absurd rfl hp
  | _ => exact Iff.rfl

theorem OnlyChanges.setPc (h : OnlyChanges regs parts s t) (hpc : .pc ∈ parts) (w : Word) :
    OnlyChanges regs parts s (t.setPc w) := by
  obtain ⟨hregs, hparts⟩ := h
  exact ⟨hregs, fun p hp => (Part.kept_setPc_iff (ne_of_mem_of_not_mem hpc hp).symm).mpr (hparts p hp)⟩

theorem OnlyChanges.setStack (h : OnlyChanges regs parts s t) (hstack : .stack ∈ parts) (k : List Word) :
    OnlyChanges regs parts s (t.setStack k) := by
  obtain ⟨hregs, hparts⟩ := h
  exact ⟨hregs, fun p hp => (Part.kept_setStack_iff (ne_of_mem_of_not_mem hstack hp).symm).mpr (hparts p hp)⟩

/-- A skip, taken or not, is a write of PC (R79). -/
theorem OnlyChanges.skipIf (h : OnlyChanges regs parts s t) (hpc : .pc ∈ parts) (c : Bool) :
    OnlyChanges regs parts s (t.skipIf c) :=
  h.setPc hpc _

theorem Part.kept_raiseHalt_iff {reason : HaltReason} {word : Option Word}
    (hp : p ∉ [.runState, .haltReason, .faultWord]) : p.Kept s (raiseHalt reason word t) ↔ p.Kept s t := by
  cases p with
  | runState | haltReason | faultWord => simp at hp
  | _ => exact Iff.rfl

/-- Taking a halt writes the status registers and nothing else (R129). -/
theorem onlyChanges_raiseHalt (reason : HaltReason) (word : Option Word) (s : State) :
    OnlyChanges [] [.runState, .haltReason, .faultWord] s (raiseHalt reason word s) :=
  ⟨fun _ _ => rfl, fun p hp => (Part.kept_raiseHalt_iff hp).mpr (p.kept_refl s)⟩

theorem haltedAt_raiseHalt (reason : HaltReason) (w : Word) (s : State) :
    HaltedAt reason w s (raiseHalt reason (some w) s) :=
  ⟨rfl, rfl, rfl, rfl, onlyChanges_raiseHalt reason (some w) s⟩

end Frames

/-! ## Jump targets (R68, R95) -/

@[simp] theorem zext12_toNat (nnn : Addr12) : (zext12 nnn).toNat = nnn.toNat :=
  BitVec.toNat_setWidth_of_le (by decide)

@[simp] theorem zext8_toNat (b : Byte) : (zext8 b).toNat = b.toNat :=
  BitVec.toNat_setWidth_of_le (by decide)

/-- A byte and a 12-bit address sum to less than 2^16, so the 16-bit PC holds the exact sum. -/
theorem zext8_add_zext12_toNat (b : Byte) (nnn : Addr12) :
    (zext8 b + zext12 nnn).toNat = b.toNat + nnn.toNat := by
  have hfits : (zext8 b).toNat + (zext12 nnn).toNat < 2 ^ 16 := by
    rw [zext8_toNat, zext12_toNat]
    omega
  rw [BitVec.toNat_add_of_lt hfits, zext8_toNat, zext12_toNat]

/-! ## The instructions as updates -/

section Updates
variable (nnn : Addr12) (x y : Reg) (nn : Byte) (s : State)

theorem exec_jp : exec (.jp nnn) s = .next (s.setPc (zext12 nnn)) := rfl

theorem exec_jpV0 : exec (.jpV0 nnn) s = .next (s.setPc (zext8 (s.reg 0x0#4) + zext12 nnn)) := rfl

theorem exec_seImm : exec (.seImm x nn) s = .next (s.skipIf (decide (s.reg x = nn))) := rfl

theorem exec_sneImm : exec (.sneImm x nn) s = .next (s.skipIf (decide (s.reg x ≠ nn))) := by
  rw [decide_not]
  rfl

theorem exec_seReg : exec (.seReg x y) s = .next (s.skipIf (decide (s.reg x = s.reg y))) := rfl

theorem exec_sneReg : exec (.sneReg x y) s = .next (s.skipIf (decide (s.reg x ≠ s.reg y))) :=
  exec_sneImm x (s.reg y) s

/-- What a return can do (R87). -/
theorem exec_ret_cases :
    (s.stack = [] ∧ exec .ret s = .next (raiseHalt .stackUnderflow (some 0x00EE#16) s)) ∨
    (∃ target rest, s.stack = target :: rest ∧ exec .ret s = .next ((s.setStack rest).setPc target)) := by
  rw [show exec .ret s = execRet s from rfl, execRet]
  rcases pop_cases s with ⟨hempty, hpop⟩ | ⟨target, rest, hstack, hpop⟩
  · exact .inl ⟨hempty, by simp [hpop, encode]⟩
  · exact .inr ⟨target, rest, hstack, by simp [hpop]⟩

end Updates

/-- An instruction whose whole effect is a conditional skip, with the word it is decoded from. -/
theorem skip_spec {i : Instr} {w : Word} {c : Bool} {s : State} (hwf : i.wellFormed = true) (hw : encode i = w)
    (hexec : exec i s = .next (s.skipIf c)) :
    decode w = .instr i ∧
    ∃ t, exec i s = .next t ∧ t.pc = (if c then s.pc + 4#16 else s.pc + 2#16) ∧ OnlyChanges [] [.pc] s t :=
  ⟨decode_eq_instr_iff.mpr ⟨hwf, hw⟩, _, hexec, skipIf_pc s c, (OnlyChanges.refl s).skipIf (by simp) c⟩

/-! ## The obligations -/

/-- Settles O14: the jump writes PC alone, with the zero-extended address. -/
theorem jumpSetsPc : Obligations.JumpSetsPc := by
  unfold Obligations.JumpSetsPc
  intro nnn s
  have hframe : OnlyChanges [] [.pc] s (s.setPc (zext12 nnn)) := (OnlyChanges.refl s).setPc (by simp) _
  exact ⟨decode_encode (i := .jp nnn) rfl, _, exec_jp nnn s, zext12_toNat nnn, hframe⟩

/-- Settles O15: the jump writes PC alone, and the sum of a byte and a 12-bit address does not wrap in PC. -/
theorem indexedJumpAddsV0 : Obligations.IndexedJumpAddsV0 := by
  unfold Obligations.IndexedJumpAddsV0
  intro nnn s
  have hframe : OnlyChanges [] [.pc] s (s.setPc (zext8 (s.reg 0x0#4) + zext12 nnn)) :=
    (OnlyChanges.refl s).setPc (by simp) _
  exact ⟨decode_encode (i := .jpV0 nnn) rfl, _, exec_jpV0 nnn s, zext8_add_zext12_toNat _ nnn, hframe⟩

/-- Settles O18: by the two cases of the stack, a halt that writes the status registers alone, or a write of the stack
and PC. -/
theorem returnPopsOrUnderflows : Obligations.ReturnPopsOrUnderflows := by
  unfold Obligations.ReturnPopsOrUnderflows
  intro s
  refine ⟨decode_encode (i := .ret) rfl, ?_⟩
  rcases exec_ret_cases s with ⟨hempty, hexec⟩ | ⟨target, rest, hstack, hexec⟩
  · rw [hempty]
    exact ⟨_, hexec, haltedAt_raiseHalt .stackUnderflow 0x00EE#16 s⟩
  · have hframe : OnlyChanges [] [.pc, .stack] s ((s.setStack rest).setPc target) :=
      ((OnlyChanges.refl s).setStack (by simp) rest).setPc (by simp) target
    rw [hstack]
    exact ⟨_, hexec, rfl, rfl, hframe⟩

/-- Settles O20: each of the two instructions is a skip on its condition. -/
theorem immediateSkips : Obligations.ImmediateSkips := by
  unfold Obligations.ImmediateSkips
  intro x nn s i c w hrow
  rcases List.mem_pair.mp hrow with h | h <;> cases h
  · exact skip_spec rfl rfl (exec_seImm x nn s)
  · exact skip_spec rfl rfl (exec_sneImm x nn s)

/-- Settles O21: each of the two instructions is a skip on its condition. -/
theorem registerSkips : Obligations.RegisterSkips := by
  unfold Obligations.RegisterSkips
  intro x y s i c w hrow
  rcases List.mem_pair.mp hrow with h | h <;> cases h
  · exact skip_spec rfl rfl (exec_seReg x y s)
  · exact skip_spec rfl rfl (exec_sneReg x y s)

end Sys2Proof

/-! # Register-immediate instructions (42_register_immediate.md R96, R97)

An instruction whose result goes to one general register is a write of that register and an advance of PC; the value
written is all in which such instructions differ. -/

namespace Sys2Proof

open Machine

section Frames
variable {regs : List Reg} {parts : List Part} {s t : State}

/-- A register write reaches no part outside the register file (R16). -/
theorem Part.kept_setReg_iff {p : Part} {x : Reg} {b : Byte} : p.Kept s (t.setReg x b) ↔ p.Kept s t := by
  cases p <;> exact Iff.rfl

theorem OnlyChanges.setReg {x : Reg} (h : OnlyChanges regs parts s t) (hx : x ∈ regs) (b : Byte) :
    OnlyChanges regs parts s (t.setReg x b) := by
  obtain ⟨hregs, hparts⟩ := h
  exact ⟨fun j hj => (reg_setReg_ne t b (ne_of_mem_of_not_mem hx hj).symm).trans (hregs j hj),
    fun p hp => Part.kept_setReg_iff.mpr (hparts p hp)⟩

end Frames

/-! ## The instructions as updates -/

theorem exec_ldImm (x : Reg) (nn : Byte) (s : State) : exec (.ldImm x nn) s = .next (s.setReg x nn).advance := rfl

theorem exec_addImm (x : Reg) (nn : Byte) (s : State) :
    exec (.addImm x nn) s = .next (s.setReg x (s.reg x + nn)).advance := rfl

/-- An instruction whose whole effect is to write one register and advance, with the word it is decoded from. -/
theorem regWrite_spec {i : Instr} {w : Word} {x : Reg} {b : Byte} {s : State} (hwf : i.wellFormed = true)
    (hw : encode i = w) (hexec : exec i s = .next (s.setReg x b).advance) :
    decode w = .instr i ∧
    ∃ t, exec i s = .next t ∧ t.reg x = b ∧ t.pc = s.pc + 2#16 ∧ OnlyChanges [x] [.pc] s t := by
  have hframe : OnlyChanges [x] [.pc] s (s.setReg x b).advance :=
    ((OnlyChanges.refl s).setReg (by simp) b).advance (by simp)
  exact ⟨decode_eq_instr_iff.mpr ⟨hwf, hw⟩, _, hexec, reg_setReg_same s x b, advance_pc _, hframe⟩

/-! ## The obligations -/

/-- Settles O22: the instruction is a register write of the immediate. -/
theorem loadImmediateSetsTheRegister : Obligations.LoadImmediateSetsTheRegister := by
  unfold Obligations.LoadImmediateSetsTheRegister
  intro x nn s
  exact regWrite_spec rfl rfl (exec_ldImm x nn s)

/-- Settles O23: the instruction is a register write of the byte sum, and byte addition is addition modulo 256. -/
theorem addImmediateWrapsWithoutFlag : Obligations.AddImmediateWrapsWithoutFlag := by
  unfold Obligations.AddImmediateWrapsWithoutFlag
  intro x nn s
  obtain ⟨hdecode, t, hexec, hreg, hpc, hframe⟩ := regWrite_spec rfl rfl (exec_addImm x nn s)
  have hsum : (t.reg x).toNat = ((s.reg x).toNat + nn.toNat) % 256 := by rw [hreg, BitVec.toNat_add]
  exact ⟨hdecode, t, hexec, hsum, hpc, hframe⟩

end Sys2Proof

/-! # Register-register arithmetic (43_alu.md R99-R109)

8XY0 is a write of one register. The arithmetic instructions write VF first and VX second, both values computed from
the registers before either write, so with X = F the result is VF's final value. -/

namespace Sys2Proof

open Machine

/-! ## The values written -/

section Values
variable (a b : Byte)

/-- The difference of bytes is the exact difference modulo 256 (R99). -/
theorem byte_sub_toNat_eq_emod : ((a - b).toNat : Int) = ((a.toNat : Int) - b.toNat) % 256 := by
  rw [BitVec.toNat_sub]
  omega

theorem carryFlag_eq_ite : carryFlag a b = if a.toNat + b.toNat > 255 then 0x01#8 else 0x00#8 := by
  simp [carryFlag, flagByte]

theorem noBorrowFlag_eq_ite : noBorrowFlag a b = if a.toNat ≥ b.toNat then 0x01#8 else 0x00#8 := by
  simp [noBorrowFlag, flagByte]

end Values

/-! ## The instructions as updates -/

section Updates
variable (x y : Reg) (s : State)

theorem exec_ldReg : exec (.ldReg x y) s = .next (s.setReg x (s.reg y)).advance := rfl

theorem exec_addReg :
    exec (.addReg x y) s = writeFlagThenReg (carryFlag (s.reg x) (s.reg y)) x (s.reg x + s.reg y) s := rfl

theorem exec_sub :
    exec (.sub x y) s = writeFlagThenReg (noBorrowFlag (s.reg x) (s.reg y)) x (s.reg x - s.reg y) s := rfl

theorem exec_subn :
    exec (.subn x y) s = writeFlagThenReg (noBorrowFlag (s.reg y) (s.reg x)) x (s.reg y - s.reg x) s := rfl

end Updates

/-- What a flag-writing instruction does: the result is in VX, the flag in VF unless that is VX (R109). -/
theorem flagWrite_spec {i : Instr} {flag b : Byte} {x : Reg} {s : State}
    (hexec : exec i s = writeFlagThenReg flag x b s) :
    ∃ t, exec i s = .next t ∧ t.reg x = b ∧ (x ≠ 0xF#4 → t.vf = flag) ∧ t.pc = s.pc + 2#16 ∧
      OnlyChanges [x, 0xF#4] [.pc] s t := by
  have hvf : x ≠ 0xF#4 → ((s.setVf flag).setReg x b).advance.vf = flag := fun hx =>
    calc ((s.setVf flag).setReg x b).reg regF
      _ = (s.setVf flag).reg regF := reg_setReg_ne _ b hx.symm
      _ = flag := reg_setReg_same s regF flag
  have hframe : OnlyChanges [x, 0xF#4] [.pc] s ((s.setVf flag).setReg x b).advance :=
    (((OnlyChanges.refl s).setReg (x := regF) (by simp [regF]) flag).setReg (by simp) b).advance (by simp)
  exact ⟨_, hexec, reg_setReg_same _ x b, hvf, advance_pc _, hframe⟩

/-- A subtraction, whichever register is the minuend (R105, R107), with the word it is decoded from. -/
theorem subtraction_spec {i : Instr} {w : Word} {a b : Byte} {x : Reg} {s : State} (hwf : i.wellFormed = true)
    (hw : encode i = w) (hexec : exec i s = writeFlagThenReg (noBorrowFlag a b) x (a - b) s) :
    decode w = .instr i ∧
    ∃ t, exec i s = .next t ∧ ((t.reg x).toNat : Int) = ((a.toNat : Int) - b.toNat) % 256 ∧
      (x ≠ 0xF#4 → t.vf = if a.toNat ≥ b.toNat then 0x01#8 else 0x00#8) ∧
      t.pc = s.pc + 2#16 ∧ OnlyChanges [x, 0xF#4] [.pc] s t := by
  obtain ⟨t, hnext, hreg, hvf, hpc, hframe⟩ := flagWrite_spec hexec
  refine ⟨decode_eq_instr_iff.mpr ⟨hwf, hw⟩, t, hnext, ?_, ?_, hpc, hframe⟩
  · rw [hreg, byte_sub_toNat_eq_emod]
  · rwa [← noBorrowFlag_eq_ite]

/-! ## The obligations -/

/-- Settles O25: the instruction is a register write of VY. -/
theorem moveCopiesTheRegister : Obligations.MoveCopiesTheRegister := by
  unfold Obligations.MoveCopiesTheRegister
  intro x y s
  exact regWrite_spec rfl rfl (exec_ldReg x y s)

/-- Settles O27: byte addition is addition modulo 256, and the flag is the carry of the exact sum. -/
theorem addSetsCarry : Obligations.AddSetsCarry := by
  unfold Obligations.AddSetsCarry
  intro x y s
  obtain ⟨t, hexec, hreg, hvf, hpc, hframe⟩ := flagWrite_spec (exec_addReg x y s)
  have hsum : (t.reg x).toNat = ((s.reg x).toNat + (s.reg y).toNat) % 256 := by rw [hreg, BitVec.toNat_add]
  rw [carryFlag_eq_ite] at hvf
  exact ⟨decode_encode (i := .addReg x y) rfl, t, hexec, hsum, hvf, hpc, hframe⟩

/-- Settles O28: each of the two instructions is a subtraction, with minuend and subtrahend exchanged. -/
theorem subtractSetsNoBorrow : Obligations.SubtractSetsNoBorrow := by
  unfold Obligations.SubtractSetsNoBorrow
  intro x y s i a b w hrow
  rcases List.mem_pair.mp hrow with h | h <;> cases h
  · exact subtraction_spec rfl rfl (exec_sub x y s)
  · exact subtraction_spec rfl rfl (exec_subn x y s)

end Sys2Proof

/-! # The address register (44_index_and_memory.md R111)

ANNN is a write of I and an advance of PC. -/

namespace Sys2Proof

open Machine

section Frames
variable {regs : List Reg} {parts : List Part} {s t : State}

theorem Part.kept_setI_iff {p : Part} {w : Word} (hp : p ≠ .i) : p.Kept s (t.setI w) ↔ p.Kept s t := by
  cases p with
  | i => exact absurd rfl hp
  | _ => exact Iff.rfl

theorem OnlyChanges.setI (h : OnlyChanges regs parts s t) (hi : .i ∈ parts) (w : Word) :
    OnlyChanges regs parts s (t.setI w) := by
  obtain ⟨hregs, hparts⟩ := h
  exact ⟨hregs, fun p hp => (Part.kept_setI_iff (ne_of_mem_of_not_mem hi hp).symm).mpr (hparts p hp)⟩

end Frames

theorem exec_ldI (nnn : Addr12) (s : State) : exec (.ldI nnn) s = .next (s.setI (zext12 nnn)).advance := rfl

/-- Settles O30: the instruction is a write of I with the zero-extended address. -/
theorem loadIndexSetsI : Obligations.LoadIndexSetsI := by
  unfold Obligations.LoadIndexSetsI
  intro nnn s
  have hi : (s.setI (zext12 nnn)).advance.i.toNat = nnn.toNat := by
    rw [advance_i, setI_i, zext12_toNat]
  have hframe : OnlyChanges [] [.i, .pc] s (s.setI (zext12 nnn)).advance :=
    ((OnlyChanges.refl s).setI (by simp) _).advance (by simp)
  exact ⟨decode_encode (i := .ldI nnn) rfl, _, exec_ldI nnn s, hi, advance_pc _, hframe⟩

end Sys2Proof

/-! # Clearing the screen (45_display.md R117, R120)

00E0 is a write of the framebuffer and an advance of PC; the rows of a snapshot read the pixels. -/

namespace Sys2Proof

open Machine

section Frames
variable {regs : List Reg} {parts : List Part} {s t : State}

theorem Part.kept_setFb_iff {p : Part} {fb : Framebuffer} (hp : p ≠ .fb) : p.Kept s (t.setFb fb) ↔ p.Kept s t := by
  cases p with
  | fb => exact absurd rfl hp
  | _ => exact Iff.rfl

theorem OnlyChanges.setFb (h : OnlyChanges regs parts s t) (hfb : .fb ∈ parts) (fb : Framebuffer) :
    OnlyChanges regs parts s (t.setFb fb) := by
  obtain ⟨hregs, hparts⟩ := h
  exact ⟨hregs, fun p hp => (Part.kept_setFb_iff (ne_of_mem_of_not_mem hfb hp).symm).mpr (hparts p hp)⟩

end Frames

theorem exec_cls (s : State) : exec .cls s = .next (s.setFb Framebuffer.clear).advance := rfl

/-- The snapshot of a screen with no pixel set is the all-zero grid (R44). -/
theorem snapshot_eq_zero_grid {s : State} (h : ∀ x y, s.fb.pixel x y = false) :
    snapshot s = List.replicate 32 (List.replicate 64 false) := by
  simp [snapshot, h]

/-- Settles O38: the instruction is a write of the cleared framebuffer, whose pixels are all 0. -/
theorem clearScreenClearsEveryPixel : Obligations.ClearScreenClearsEveryPixel := by
  unfold Obligations.ClearScreenClearsEveryPixel
  intro s
  have hpixels : ∀ x y, (s.setFb Framebuffer.clear).advance.fb.pixel x y = false := fun x y => by
    rw [advance_fb, setFb_fb, pixel_clear]
  have hframe : OnlyChanges [] [.fb, .pc] s (s.setFb Framebuffer.clear).advance :=
    ((OnlyChanges.refl s).setFb (by simp) _).advance (by simp)
  exact ⟨decode_encode (i := .cls) rfl, _, exec_cls s, hpixels, snapshot_eq_zero_grid hpixels, advance_pc _, hframe⟩

end Sys2Proof

/-! # The decoder and its table of unknown words (30_encoding.md R70-R73)

A word that decodes to an instruction is that instruction's word; the words that decode to UNKNOWN are read off the
decoder's branches, family by family. -/

namespace Sys2Proof

/-- Settles O2: the decoder reads back the fields that the encoder packed. -/
theorem decodeInvertsEncode : Obligations.DecodeInvertsEncode := by
  unfold Obligations.DecodeInvertsEncode
  exact fun i hwf => decode_encode hwf

/-- Settles O3: each branch of the decoder fixes the fields that its instruction's word has fixed. -/
theorem encodeRecoversTheDecodedWord : Obligations.EncodeRecoversTheDecodedWord := by
  unfold Obligations.EncodeRecoversTheDecodedWord
  exact fun w i hdecode => decode_instr hdecode

section UnknownWords
variable {w u : Word}

theorem decode0_ne_unknown : decode0 w ≠ .unknown u := by
  unfold decode0
  split_ifs <;> simp

/-- A nibble that selects no operation of family 8 is one of the rule's list (R72). -/
theorem nibble_mem_of_no_operation : ∀ n : Nibble, n ≠ 0x0#4 → n ≠ 0x1#4 → n ≠ 0x2#4 → n ≠ 0x3#4 → n ≠ 0x4#4 →
    n ≠ 0x5#4 → n ≠ 0x6#4 → n ≠ 0x7#4 → n ≠ 0xE#4 →
    n ∈ [0x8#4, 0x9#4, 0xA#4, 0xB#4, 0xC#4, 0xD#4, 0xF#4] := by
  intros
  simp only [List.mem_cons, List.not_mem_nil, or_false]
  bv_omega

theorem decode8_eq_unknown_iff :
    decode8 w = .unknown u ↔ u = w ∧ fieldN w ∈ [0x8#4, 0x9#4, 0xA#4, 0xB#4, 0xC#4, 0xD#4, 0xF#4] := by
  unfold decode8
  split
  case h_10 =>
    have hmem : fieldN w ∈ [0x8#4, 0x9#4, 0xA#4, 0xB#4, 0xC#4, 0xD#4, 0xF#4] := by
      apply nibble_mem_of_no_operation <;> assumption
    simp [hmem, eq_comm]
  all_goals simp [*]

theorem decodeE_eq_unknown_iff : decodeE w = .unknown u ↔ u = w ∧ fieldNN w ∉ [0x9E#8, 0xA1#8] := by
  unfold decodeE
  split <;> simp_all [eq_comm]

theorem decodeF_eq_unknown_iff :
    decodeF w = .unknown u ↔
      u = w ∧ fieldNN w ∉ [0x07#8, 0x0A#8, 0x15#8, 0x18#8, 0x1E#8, 0x29#8, 0x33#8, 0x55#8, 0x65#8] := by
  unfold decodeF
  split <;> simp_all [eq_comm]

end UnknownWords

/-- Settles O5: the families that have unknown words are 5, 8, 9, E and F, and each branch of the decoder says which
values of its deciding field they have. -/
theorem unknownWordsAreThoseOfTheTable : Obligations.UnknownWordsAreThoseOfTheTable := by
  unfold Obligations.UnknownWordsAreThoseOfTheTable
  intro w u
  unfold decode
  split
  case h_1 hop => simp [hop, decode0_ne_unknown]
  case h_6 hop | h_10 hop => by_cases hn : fieldN w = 0x0#4 <;> simp [hop, hn, eq_comm]
  case h_9 hop => simp [hop, decode8_eq_unknown_iff]
  case h_15 hop => simp [hop, decodeE_eq_unknown_iff]
  case h_16 =>
    have hop : fieldOp w = 0xF#4 := by apply nibble_eq_F <;> assumption
    simp [hop, decodeF_eq_unknown_iff]
  case h_2 hop | h_3 hop | h_4 hop | h_5 hop | h_7 hop | h_8 hop | h_11 hop | h_12 hop | h_13 hop | h_14 hop =>
    simp [hop]

/-- Settles O1: the decoder runs on each written word. -/
theorem writtenWordsDecodeAsTheOpcodeMapSays : Obligations.WrittenWordsDecodeAsTheOpcodeMapSays := by
  unfold Obligations.WrittenWordsDecodeAsTheOpcodeMapSays
  decide

end Sys2Proof

/-! # One equation for `exec` (40_execution_loop.md R78, 60_exceptions.md R129, R132)

An instruction has at most one fault condition. When it is met the instruction is a halt and nothing else; when it is
not, the instruction is a single update of the state. Every rule of the whole machine is read off that equation. -/

namespace Sys2Proof

open Machine

/-! ## The fault condition (R130, R132) -/

/-- How many bytes from I on the instruction transfers (44_index_and_memory.md R114-R116, 45_display.md R121). -/
def Instr.transferLength : Instr → Nat
  | .drw _ _ n => n.toNat
  | .ldB _ => 3
  | .ldMemVx x => x.toNat + 1
  | .ldVxMem x => x.toNat + 1
  | _ => 0

/-- The error the instruction raises in a state, if any (R132). -/
def Instr.fault? (i : Instr) (s : State) : Option HaltReason :=
  match i with
  | .ret => if s.stack = [] then some .stackUnderflow else none
  | .sys _ | .call _ => if s.stackFull then some .stackOverflow else none
  | _ => if spanInBounds s.base i.transferLength = false then some .outOfBounds else none

/-! ## The update -/

/-- The state after the instruction, when it raises no error. -/
def Instr.effect (i : Instr) (s : State) : State :=
  match i with
  | .cls => (s.setFb Framebuffer.clear).advance
  | .ret => (s.setStack s.stack.tail).setPc (s.stack.headD 0#16)
  | .sys nnn | .call nnn => (s.setStack ((s.pc + 2#16) :: s.stack)).setPc (zext12 nnn)
  | .jp nnn => s.setPc (zext12 nnn)
  | .jpV0 nnn => s.setPc (zext8 (s.reg 0x0#4) + zext12 nnn)
  | .seImm x nn => s.skipIf (decide (s.reg x = nn))
  | .sneImm x nn => s.skipIf (decide (s.reg x ≠ nn))
  | .seReg x y => s.skipIf (decide (s.reg x = s.reg y))
  | .sneReg x y => s.skipIf (decide (s.reg x ≠ s.reg y))
  | .ldImm x nn => (s.setReg x nn).advance
  | .addImm x nn => (s.setReg x (s.reg x + nn)).advance
  | .ldReg x y => (s.setReg x (s.reg y)).advance
  | .or x y => (s.setReg x (s.reg x ||| s.reg y)).advance
  | .and x y => (s.setReg x (s.reg x &&& s.reg y)).advance
  | .xor x y => (s.setReg x (s.reg x ^^^ s.reg y)).advance
  | .addReg x y => ((s.setVf (carryFlag (s.reg x) (s.reg y))).setReg x (s.reg x + s.reg y)).advance
  | .sub x y => ((s.setVf (noBorrowFlag (s.reg x) (s.reg y))).setReg x (s.reg x - s.reg y)).advance
  | .subn x y => ((s.setVf (noBorrowFlag (s.reg y) (s.reg x))).setReg x (s.reg y - s.reg x)).advance
  | .shr x _ => ((s.setVf (shiftRightFlag (s.reg x))).setReg x (s.reg x >>> 1)).advance
  | .shl x _ => ((s.setVf (shiftLeftFlag (s.reg x))).setReg x (s.reg x <<< 1)).advance
  | .ldI nnn => (s.setI (zext12 nnn)).advance
  | .addI x => (s.setI (s.i + zext8 (s.reg x))).advance
  | .ldF x => (s.setI (Config.glyphAddr (s.reg x))).advance
  | .rnd x nn => ((rng s).2.setReg x (Config.rngByte s.rngCalls &&& nn)).advance
  | .drw x y n =>
    let c := drawSprite s.fb (s.reg x) (s.reg y) (s.mem.readBytes s.base n.toNat)
    ((s.setFb c.fb).setVf (collisionFlag c.collided)).advance
  | .skp x => (keyDown (s.reg x) s).2.skipIf ((keyDown (s.reg x) s).1 == some true)
  | .sknp x => (keyDown (s.reg x) s).2.skipIf ((keyDown (s.reg x) s).1 == some false)
  | .ldVxDt x => (s.setReg x s.dt).advance
  | .ldVxK x => s.beginWait x
  | .ldDtVx x => (dtWrite (s.reg x) s).advance
  | .ldStVx x => (stWrite (s.reg x) s).advance
  | .ldB x => (s.setMem (s.mem.writeBytes s.base (decimalDigits (s.reg x)))).advance
  | .ldMemVx x => (s.setMem (s.mem.writeBytes s.base (s.regsUpTo x))).advance
  | .ldVxMem x => (s.setRegsFrom 0 (s.mem.readBytes s.base (x.toNat + 1))).advance

@[simp] theorem decimalDigits_length (b : Byte) : (decimalDigits b).length = 3 := rfl

/-- What any instruction does in any state: the halt of its fault condition, or its update (R129). -/
theorem exec_eq (i : Instr) (s : State) :
    exec i s = .next (match i.fault? s with
      | some reason => raiseHalt reason (some (encode i)) s
      | none => i.effect s) := by
  cases i with
  | ret =>
    rcases exec_ret_cases s with ⟨hempty, hexec⟩ | ⟨target, rest, hstack, hexec⟩
    · simp [hexec, Instr.fault?, hempty, encode]
    · simp [hexec, Instr.fault?, Instr.effect, hstack]
  | sys nnn | call nnn =>
    rcases pushAndJump_cases (zext12 nnn) s with ⟨hfull, hcall⟩ | ⟨hfull, hcall⟩ <;>
      simp [exec, execSys, execCall, hcall, Instr.fault?, Instr.effect, hfull]
  | ldB x =>
    rcases storeAtI_cases (decimalDigits (s.reg x)) s with ⟨hspan, hstore⟩ | ⟨hspan, hstore⟩ <;>
      rw [decimalDigits_length] at hspan <;>
      simp [exec, execLdB, hstore, Instr.fault?, Instr.effect, Instr.transferLength, hspan]
  | ldMemVx x =>
    rcases storeAtI_cases (s.regsUpTo x) s with ⟨hspan, hstore⟩ | ⟨hspan, hstore⟩ <;>
      rw [regsUpTo_length] at hspan <;>
      simp [exec, execLdMemVx, hstore, Instr.fault?, Instr.effect, Instr.transferLength, hspan]
  | ldVxMem x =>
    rcases execLdVxMem_cases x s with ⟨hspan, hexec⟩ | ⟨hspan, hexec⟩ <;>
      simp [exec, hexec, Instr.fault?, Instr.effect, Instr.transferLength, hspan]
  | drw x y n =>
    rcases execDrw_cases x y n s with ⟨hspan, c, rfl, hexec⟩ | ⟨hspan, hexec⟩ <;>
      simp [exec, hexec, Instr.fault?, Instr.effect, Instr.transferLength, hspan]
  | sneImm x nn => exact exec_sneImm x nn s
  | sneReg x y => exact exec_sneReg x y s
  | _ => rfl

section Cases
variable {i : Instr} {s t : State} {reason : HaltReason}

theorem exec_of_no_fault (h : i.fault? s = none) : exec i s = .next (i.effect s) := by
  rw [exec_eq, h]

theorem exec_of_fault (h : i.fault? s = some reason) :
    exec i s = .next (raiseHalt reason (some (encode i)) s) := by
  rw [exec_eq, h]

/-- The two ends an instruction can have. -/
theorem exec_next_cases (h : exec i s = .next t) :
    (i.fault? s = none ∧ t = i.effect s) ∨
    ∃ reason, i.fault? s = some reason ∧ t = raiseHalt reason (some (encode i)) s := by
  cases hfault : i.fault? s with
  | none => exact .inl ⟨rfl, by simpa [exec_of_no_fault hfault] using h.symm⟩
  | some reason => exact .inr ⟨reason, rfl, by simpa [exec_of_fault hfault] using h.symm⟩

end Cases

/-! ## Frames (R16, R21, R28, R29, R55) -/

section Frames
variable {regs : List Reg} {parts : List Part} {s t u : State} {p : Part}

theorem Part.kept_trans (hst : p.Kept s t) (htu : p.Kept t u) : p.Kept s u := by
  cases p with
  | fb => exact fun x y => (htu x y).trans (hst x y)
  | mem => exact fun a => (htu a).trans (hst a)
  | faultWord | parameters => exact ⟨htu.1.trans hst.1, htu.2.trans hst.2⟩
  | _ => exact Eq.trans htu hst

theorem OnlyChanges.trans (hst : OnlyChanges regs parts s t) (htu : OnlyChanges regs parts t u) :
    OnlyChanges regs parts s u :=
  ⟨fun j hj => (htu.1 j hj).trans (hst.1 j hj), fun p hp => Part.kept_trans (hst.2 p hp) (htu.2 p hp)⟩

/-- A frame may be widened. -/
theorem OnlyChanges.mono {regs' : List Reg} {parts' : List Part} (h : OnlyChanges regs parts s t)
    (hregs : regs ⊆ regs') (hparts : parts ⊆ parts') : OnlyChanges regs' parts' s t :=
  ⟨fun j hj => h.1 j (mt (@hregs j) hj), fun p hp => h.2 p (mt (@hparts p) hp)⟩

theorem OnlyChanges.setVf (h : OnlyChanges regs parts s t) (hvf : 0xF#4 ∈ regs) (b : Byte) :
    OnlyChanges regs parts s (t.setVf b) :=
  h.setReg hvf b

theorem OnlyChanges.setMem (h : OnlyChanges regs parts s t) (hmem : .mem ∈ parts) (m : Memory) :
    OnlyChanges regs parts s (t.setMem m) :=
  h.trans ⟨fun _ _ => rfl, fun p hp => by
    have hkept := p.kept_refl t
    cases p with
    | mem => exact absurd hmem hp
    | _ => exact hkept⟩

theorem OnlyChanges.dtWrite (h : OnlyChanges regs parts s t) (hdt : .dt ∈ parts) (b : Byte) :
    OnlyChanges regs parts s (Machine.dtWrite b t) :=
  h.trans ⟨fun _ _ => rfl, fun p hp => by
    have hkept := p.kept_refl t
    cases p with
    | dt => exact absurd hdt hp
    | _ => exact hkept⟩

theorem OnlyChanges.stWrite (h : OnlyChanges regs parts s t) (hst : .st ∈ parts) (b : Byte) :
    OnlyChanges regs parts s (Machine.stWrite b t) :=
  h.trans ⟨fun _ _ => rfl, fun p hp => by
    have hkept := p.kept_refl t
    cases p with
    | st => exact absurd hst hp
    | _ => exact hkept⟩

theorem OnlyChanges.rng (h : OnlyChanges regs parts s t) (hcalls : .rngCalls ∈ parts) :
    OnlyChanges regs parts s (Machine.rng t).2 :=
  h.trans ⟨fun _ _ => rfl, fun p hp => by
    have hkept := p.kept_refl t
    cases p with
    | rngCalls => exact absurd hcalls hp
    | _ => exact hkept⟩

/-- The call is counted only with an input source attached (D16). -/
theorem OnlyChanges.keyDown (h : OnlyChanges regs parts s t) (hcalls : .keyDownCalls ∈ parts) (k : Byte) :
    OnlyChanges regs parts s (Machine.keyDown k t).2 := by
  rcases keyDown_cases k t with ⟨-, hcall⟩ | ⟨-, hcall⟩ <;> rw [hcall]
  · exact h.trans ⟨fun _ _ => rfl, fun p hp => by
      have hkept := p.kept_refl t
      cases p with
      | keyDownCalls => exact absurd hcalls hp
      | _ => exact hkept⟩
  · exact h

theorem OnlyChanges.beginWait (h : OnlyChanges regs parts s t) (hwait : .waitX ∈ parts)
    (hrun : .runState ∈ parts) (x : Reg) : OnlyChanges regs parts s (t.beginWait x) :=
  h.trans ⟨fun _ _ => rfl, fun p hp => by
    have hkept := p.kept_refl t
    cases p with
    | waitX => exact absurd hwait hp
    | runState => exact absurd hrun hp
    | _ => exact hkept⟩

/-- Writing V0 to VX from a list writes no other register and no part (R116). -/
theorem OnlyChanges.setRegsFrom {bs : List Byte} (h : OnlyChanges regs parts s t) (hlen : bs.length ≤ 16)
    (hregs : ∀ j : Reg, j.toNat < bs.length → j ∈ regs) : OnlyChanges regs parts s (t.setRegsFrom 0 bs) := by
  refine h.trans ⟨fun j hj => ?_, fun p _ => ?_⟩
  · rw [reg_setRegsFrom t 0 bs (by omega), if_neg fun hin => hj (hregs j (by omega))]
  · rw [setRegsFrom_eq]
    have hkept := p.kept_refl t
    cases p <;> exact hkept

end Frames

/-! ## What the update writes -/

/-- The general registers the instruction writes. -/
@[simp] def Instr.regsWritten : Instr → List Reg
  | .ldImm x _ | .addImm x _ | .ldReg x _ | .or x _ | .and x _ | .xor x _ | .rnd x _ | .ldVxDt x => [x]
  | .addReg x _ | .sub x _ | .subn x _ | .shr x _ | .shl x _ => [x, 0xF#4]
  | .drw _ _ _ => [0xF#4]
  | .ldVxMem x => (List.range (x.toNat + 1)).map (BitVec.ofNat 4)
  | _ => []

/-- The parts of the state besides the general registers that the instruction writes. -/
@[simp] def Instr.partsWritten : Instr → List Part
  | .cls | .drw _ _ _ => [.fb, .pc]
  | .ret | .sys _ | .call _ => [.pc, .stack]
  | .ldI _ | .addI _ | .ldF _ => [.i, .pc]
  | .rnd _ _ => [.pc, .rngCalls]
  | .skp _ | .sknp _ => [.pc, .keyDownCalls]
  | .ldVxK _ => [.waitX, .runState]
  | .ldDtVx _ => [.pc, .dt]
  | .ldStVx _ => [.pc, .st]
  | .ldB _ | .ldMemVx _ => [.mem, .pc]
  | _ => [.pc]

theorem mem_regsWritten_ldVxMem {x j : Reg} : j ∈ (Instr.ldVxMem x).regsWritten ↔ j.toNat ≤ x.toNat := by
  simp only [Instr.regsWritten, List.mem_map, List.mem_range]
  constructor
  · rintro ⟨k, hk, rfl⟩
    rw [BitVec.toNat_ofNat]
    exact (Nat.mod_le _ _).trans (Nat.le_of_lt_succ hk)
  · exact fun hj => ⟨j.toNat, Nat.lt_succ_of_le hj, BitVec.ofNat_toNat ..⟩

theorem onlyChanges_effect (i : Instr) (s : State) : OnlyChanges i.regsWritten i.partsWritten s (i.effect s) := by
  have h : OnlyChanges i.regsWritten i.partsWritten s s := OnlyChanges.refl s
  cases i with
  | cls => exact (h.setFb (by simp) _).advance (by simp)
  | ret | sys _ | call _ => exact (h.setStack (by simp) _).setPc (by simp) _
  | jp _ | jpV0 _ => exact h.setPc (by simp) _
  | seImm _ _ | sneImm _ _ | seReg _ _ | sneReg _ _ => exact h.skipIf (by simp) _
  | ldImm _ _ | addImm _ _ | ldReg _ _ | or _ _ | and _ _ | xor _ _ | ldVxDt _ =>
    exact (h.setReg (by simp) _).advance (by simp)
  | addReg _ _ | sub _ _ | subn _ _ | shr _ _ | shl _ _ =>
    exact ((h.setVf (by simp) _).setReg (by simp) _).advance (by simp)
  | ldI _ | addI _ | ldF _ => exact (h.setI (by simp) _).advance (by simp)
  | rnd _ _ => exact ((h.rng (by simp)).setReg (by simp) _).advance (by simp)
  | drw _ _ _ => exact ((h.setFb (by simp) _).setVf (by simp) _).advance (by simp)
  | skp _ | sknp _ => exact (h.keyDown (by simp) _).skipIf (by simp) _
  | ldVxK _ => exact h.beginWait (by simp) (by simp) _
  | ldDtVx _ => exact (h.dtWrite (by simp) _).advance (by simp)
  | ldStVx _ => exact (h.stWrite (by simp) _).advance (by simp)
  | ldB _ | ldMemVx _ => exact (h.setMem (by simp) _).advance (by simp)
  | ldVxMem x =>
    have hregs : ∀ j : Reg, j.toNat < (s.mem.readBytes s.base (x.toNat + 1)).length →
        j ∈ (Instr.ldVxMem x).regsWritten := fun j hj => by
      rw [readBytes_length] at hj
      exact mem_regsWritten_ldVxMem.mpr (Nat.le_of_lt_succ hj)
    exact (h.setRegsFrom (by rw [readBytes_length]; omega) hregs).advance (by simp)

/-- Whichever way it ends, an instruction changes no more than what it writes and the status registers of a halt. -/
theorem onlyChanges_exec {i : Instr} {s t : State} (h : exec i s = .next t) :
    OnlyChanges i.regsWritten ([.runState, .haltReason, .faultWord] ++ i.partsWritten) s t := by
  rcases exec_next_cases h with ⟨-, rfl⟩ | ⟨reason, -, rfl⟩
  · exact (onlyChanges_effect i s).mono (List.Subset.refl _) (List.subset_append_right _ _)
  · exact (onlyChanges_raiseHalt reason _ s).mono (List.nil_subset _) (List.subset_append_left _ _)

end Sys2Proof

/-! # Halts (60_exceptions.md R129-R133)

An instruction halts exactly when its fault condition is met, and then the halt is all it does. -/

namespace Sys2Proof

open Machine

section Halting
variable {i : Instr} {s t : State} {reason : HaltReason}

/-- Only FX0A, which begins a wait, has an update that writes RUN_STATE (R125). -/
theorem effect_runState_ne_halted (hrun : s.runState = .running) : (i.effect s).runState ≠ .halted := by
  obtain ⟨-, hparts⟩ := onlyChanges_effect i s
  cases i with
  | ldVxK x => simp [Instr.effect]
  | _ =>
    rw [(hparts .runState (by simp)).trans hrun]
    decide

theorem fault?_ne_some_none : i.fault? s ≠ some .none := by
  unfold Instr.fault?
  split <;> split <;> simp

/-- What an instruction whose error is `reason`, on the condition `c` or in other words `d`, does to the status
registers. -/
theorem halts_exactly_on {c d : Prop} [Decidable c] (hrun : s.runState = .running)
    (hfault : i.fault? s = if c then some reason else none) (hcd : c ↔ d) :
    ∃ t, exec i s = .next t ∧ (t.runState = .halted ↔ d) ∧ (t.runState = .halted → t.haltReason = reason) := by
  rw [← hcd]
  by_cases hc : c
  · rw [if_pos hc] at hfault
    exact ⟨_, exec_of_fault hfault, by simp [hc], fun _ => rfl⟩
  · rw [if_neg hc] at hfault
    have hne : (i.effect s).runState ≠ .halted := effect_runState_ne_halted hrun
    exact ⟨_, exec_of_no_fault hfault, by simp [hc, hne], fun h => absurd h hne⟩

theorem spanInBounds_eq_false_iff {a n : Nat} : spanInBounds a n = false ↔ 0 < n ∧ 0x1000 < a + n := by
  rw [← Bool.not_eq_true, spanInBounds_iff]
  omega

end Halting

/-- A word of format ADDR as a number (R67). -/
theorem packAddr_eq_ofNat (op : Nibble) (nnn : Addr12) :
    packAddr op nnn = BitVec.ofNat 16 (op.toNat * 0x1000 + nnn.toNat) := by
  refine BitVec.eq_of_toNat_eq ?_
  have happend : (packAddr op nnn).toNat = op.toNat <<< 12 ||| nnn.toNat := BitVec.toNat_append op nnn
  rw [happend, ← Nat.shiftLeft_add_eq_or_of_lt nnn.isLt, Nat.shiftLeft_eq, BitVec.toNat_ofNat]
  omega

/-! ## The obligations -/

/-- Settles O12: of the two ends of an instruction the halt alone leaves a running engine halted. -/
theorem haltingInstructionHasNoOtherEffect : Obligations.HaltingInstructionHasNoOtherEffect := by
  unfold Obligations.HaltingInstructionHasNoOtherEffect
  intro i s t hrun hexec hhalted
  rcases exec_next_cases hexec with ⟨-, rfl⟩ | ⟨reason, hfault, rfl⟩
  · exact absurd hhalted (effect_runState_ne_halted hrun)
  · have hreason : reason ≠ .none := fun h => fault?_ne_some_none (h ▸ hfault)
    exact ⟨hreason, haltedAt_raiseHalt reason (encode i) s⟩

/-- Settles O13: each condition of the statement is the instruction's fault condition, written out. -/
theorem instructionsHaltExactlyOnTheirCondition : Obligations.InstructionsHaltExactlyOnTheirCondition := by
  unfold Obligations.InstructionsHaltExactlyOnTheirCondition
  intro i s hrun
  cases i with
  | ret => exact halts_exactly_on hrun rfl List.length_eq_zero_iff.symm
  | sys _ | call _ => exact halts_exactly_on hrun rfl (stackFull_iff s)
  | drw _ _ _ | ldB _ | ldMemVx _ | ldVxMem _ =>
    refine halts_exactly_on hrun rfl (spanInBounds_eq_false_iff.trans ?_)
    simp only [Instr.transferLength]
    omega
  | _ => exact ⟨_, exec_of_no_fault rfl, effect_runState_ne_halted hrun⟩

/-- Settles O36: each of the four instructions transfers the `n` bytes of the statement, so its fault condition is
met. -/
theorem transfersOutOfBoundsHalt : Obligations.TransfersOutOfBoundsHalt := by
  unfold Obligations.TransfersOutOfBoundsHalt
  intro x y h s i n hrow hn hbound
  have hspan : spanInBounds s.base n = false := spanInBounds_eq_false_iff.mpr ⟨hn, by omega⟩
  have hfault : i.fault? s = some .outOfBounds := by
    simp only [List.mem_cons, List.not_mem_nil, or_false] at hrow
    rcases hrow with h | h | h | h <;> cases h <;> exact if_pos hspan
  exact ⟨_, exec_of_fault hfault, haltedAt_raiseHalt .outOfBounds (encode i) s⟩

/-- Settles O17: on a full stack the fault condition of both calls is met, and their words differ in the family
nibble. -/
theorem callOnAFullStackHalts : Obligations.CallOnAFullStackHalts := by
  unfold Obligations.CallOnAFullStackHalts
  intro nnn s i w hrow hfull
  have hcond : s.stackFull = true := (stackFull_iff s).mpr hfull
  have hcases : encode i = BitVec.ofNat 16 w ∧ i.fault? s = some .stackOverflow := by
    rcases List.mem_pair.mp hrow with h | h <;> cases h
    · exact ⟨(packAddr_eq_ofNat 0x0#4 nnn).trans (by simp), if_pos hcond⟩
    · exact ⟨packAddr_eq_ofNat 0x2#4 nnn, if_pos hcond⟩
  obtain ⟨hword, hfault⟩ := hcases
  rw [← hword]
  exact ⟨_, exec_of_fault hfault, haltedAt_raiseHalt .stackOverflow (encode i) s⟩

end Sys2Proof

/-! # What each instruction may change (10_state.md R17, R19, R28, R29, R34, R42-R45, 20_memory.md R55)

A register or a part that differs after an instruction is one that the instruction writes, and then the instruction did
not halt. -/

namespace Sys2Proof

open Machine

section Changes
variable {i : Instr} {s t : State}

theorem mem_regsWritten_of_changed {j : Reg} (h : exec i s = .next t) (hne : t.reg j ≠ s.reg j) :
    j ∈ i.regsWritten := by
  by_contra hj
  exact hne ((onlyChanges_exec h).1 j hj)

/-- A part outside the status registers changes only by the update of an instruction that writes it. -/
theorem changed_by_effect {p : Part} (h : exec i s = .next t) (hp : p ∉ [.runState, .haltReason, .faultWord])
    (hne : ¬ p.Kept s t) : p ∈ i.partsWritten ∧ i.fault? s = none ∧ t = i.effect s := by
  rcases exec_next_cases h with ⟨hfault, rfl⟩ | ⟨reason, -, rfl⟩
  · refine ⟨?_, hfault, rfl⟩
    by_contra hw
    exact hne ((onlyChanges_effect i s).2 p hw)
  · exact absurd ((onlyChanges_raiseHalt reason _ s).2 p hp) hne

/-- A return that raises no error finds an entry on the stack (R87). -/
theorem stack_of_ret_no_fault (h : Instr.ret.fault? s = none) :
    s.stack = s.stack.headD 0#16 :: s.stack.tail := by
  cases hstack : s.stack with
  | nil => simp [Instr.fault?, hstack] at h
  | cons target rest => rfl

end Changes

/-- Settles O46: VF is among the registers the instruction writes. -/
theorem vfIsWrittenOnlyAsFlagOrDestination : Obligations.VfIsWrittenOnlyAsFlagOrDestination := by
  unfold Obligations.VfIsWrittenOnlyAsFlagOrDestination
  intro i s t hexec hne
  have hwritten : 0xF#4 ∈ i.regsWritten := mem_regsWritten_of_changed hexec hne
  cases i with
  | addReg _ _ | sub _ _ | shr _ _ | subn _ _ | shl _ _ | drw _ _ _ => trivial
  | ldImm _ _ | addImm _ _ | ldReg _ _ | or _ _ | and _ _ | xor _ _ | rnd _ _ | ldVxDt _ =>
    exact (List.mem_singleton.mp hwritten).symm
  | ldVxMem x =>
    have hx : 15 ≤ x.toNat := mem_regsWritten_ldVxMem.mp hwritten
    show x = 0xF#4
    bv_omega
  | _ => simp at hwritten

/-- Settles O47: I is among the parts the instruction writes. -/
theorem indexIsWrittenOnlyByItsInstructions : Obligations.IndexIsWrittenOnlyByItsInstructions := by
  unfold Obligations.IndexIsWrittenOnlyByItsInstructions
  intro i s t hexec hne
  obtain ⟨hwritten, -, -⟩ := changed_by_effect (p := .i) hexec (by simp) hne
  cases i with
  | ldI _ | addI _ | ldF _ => simp
  | _ => simp at hwritten

/-- Settles O48: the instruction writes the stack, so it is a call or a return that did not halt. -/
theorem stackIsTouchedOnlyByCallsAndReturn : Obligations.StackIsTouchedOnlyByCallsAndReturn := by
  unfold Obligations.StackIsTouchedOnlyByCallsAndReturn
  intro i s t hexec hne
  obtain ⟨hwritten, hfault, rfl⟩ := changed_by_effect (p := .stack) hexec (by simp) hne
  cases i with
  | sys nnn => exact .inl ⟨.inl ⟨nnn, rfl⟩, rfl⟩
  | call nnn => exact .inl ⟨.inr ⟨nnn, rfl⟩, rfl⟩
  | ret => exact .inr ⟨rfl, stack_of_ret_no_fault hfault⟩
  | _ => simp at hwritten

/-- Settles O49: the framebuffer is among the parts the instruction writes. -/
theorem pixelsAreWrittenOnlyByClearAndDraw : Obligations.PixelsAreWrittenOnlyByClearAndDraw := by
  unfold Obligations.PixelsAreWrittenOnlyByClearAndDraw
  intro i s t px py hexec hne
  obtain ⟨hwritten, -, -⟩ := changed_by_effect (p := .fb) hexec (by simp) fun hkept => hne (hkept px py)
  cases i with
  | cls | drw _ _ _ => simp
  | _ => simp at hwritten

/-- A byte that a span write changes is in the span. -/
theorem mem_span_of_read_changed {m : Memory} {a k : Nat} {bs : List Byte} (hwf : m.wf = true)
    (hne : (m.writeBytes a bs).read k ≠ m.read k) : a ≤ k ∧ k < a + bs.length := by
  by_contra hk
  exact hne (by rw [read_writeBytes m a k bs hwf, if_neg hk])

/-- Settles O50: the instruction writes memory, so it is one of the two stores, and the byte is in its span. -/
theorem memoryIsWrittenOnlyByStores : Obligations.MemoryIsWrittenOnlyByStores := by
  unfold Obligations.MemoryIsWrittenOnlyByStores
  intro i s t a hwf hexec hne
  obtain ⟨hwritten, -, rfl⟩ := changed_by_effect (p := .mem) hexec (by simp) fun hkept => hne (hkept a)
  cases i with
  | ldB x =>
    obtain ⟨hlow, hhigh⟩ := mem_span_of_read_changed hwf hne
    exact .inl ⟨x, rfl, hlow, Nat.le_of_lt_succ hhigh⟩
  | ldMemVx x =>
    obtain ⟨hlow, hhigh⟩ := mem_span_of_read_changed hwf hne
    rw [regsUpTo_length] at hhigh
    exact .inr ⟨x, rfl, hlow, Nat.le_of_lt_succ hhigh⟩
  | _ => simp at hwritten

/-- Settles O51: an instruction that does not write a counter keeps it, and the five that write one raise no error. -/
theorem portsAreCalledOnlyByTheirInstructions : Obligations.PortsAreCalledOnlyByTheirInstructions := by
  unfold Obligations.PortsAreCalledOnlyByTheirInstructions
  intro i s t hexec
  obtain ⟨-, hkept⟩ := onlyChanges_exec hexec
  have hticks : t.tickDraws = s.tickDraws := hkept .tickDraws (by cases i <;> simp)
  have hnext : t.nextKeyCalls = s.nextKeyCalls := hkept .nextKeyCalls (by cases i <;> simp)
  cases i with
  | rnd _ _ | ldDtVx _ | ldStVx _ =>
    cases hexec
    exact ⟨rfl, rfl, rfl, rfl, hticks, hnext⟩
  | skp x | sknp x =>
    cases hexec
    rcases keyDown_cases (s.reg x) s with ⟨hin, hcall⟩ | ⟨hin, hcall⟩ <;> simp [hcall, hin]
  | _ =>
    exact ⟨hkept .rngCalls (by simp), hkept .keyDownCalls (by simp), hkept .dt (by simp), hkept .st (by simp),
      hticks, hnext⟩

/-- Settles O52: a halt keeps PC, and the update of each instruction writes PC as the table says. -/
theorem nextPcFollowsTheTable : Obligations.NextPcFollowsTheTable := by
  unfold Obligations.NextPcFollowsTheTable
  intro i s t hrun hexec
  rcases exec_next_cases hexec with ⟨hfault, rfl⟩ | ⟨reason, -, rfl⟩
  · rw [if_neg (effect_runState_ne_halted hrun)]
    cases i with
    | jp nnn | call nnn | sys nnn => exact zext12_toNat nnn
    | ret => rw [stack_of_ret_no_fault hfault]; rfl
    | jpV0 nnn => exact zext8_add_zext12_toNat _ nnn
    | seImm _ _ | seReg _ _ | sneImm _ _ | sneReg _ _ => simp [Instr.effect]
    | skp x | sknp x =>
      rcases keyDown_cases (s.reg x) s with ⟨hin, hcall⟩ | ⟨hin, hcall⟩ <;> simp [Instr.effect, hcall, hin]
    | ldVxMem _ => simp [Instr.effect]
    | _ => rfl
  · rw [if_pos (raiseHalt_runState s reason _), raiseHalt_pc]

/-! ## The status registers (R34) -/

/-- The state with other status registers, RUN_STATE aside. -/
def withStatus (reason : HaltReason) (word : Word) (valid : Bool) (x : Reg) (s : State) : State :=
  { s with haltReason := reason, faultWord := word, faultWordValid := valid, waitX := x }

section Status
variable {reason : HaltReason} {word : Word} {valid : Bool} {x : Reg}

theorem onlyChanges_withStatus (s : State) :
    OnlyChanges [] [.haltReason, .faultWord, .waitX] s (withStatus reason word valid x s) :=
  ⟨fun _ _ => rfl, fun p hp => by
    have hkept := p.kept_refl s
    cases p with
    | haltReason | faultWord | waitX => simp at hp
    | _ => exact hkept⟩

theorem keyDown_withStatus (k : Byte) (s : State) :
    keyDown k (withStatus reason word valid x s) =
      ((keyDown k s).1, withStatus reason word valid x (keyDown k s).2) := by
  cases hin : s.inputAttached <;> simp [keyDown, withStatus, hin]

theorem regsFrom_withStatus (s : State) (k n : Nat) :
    (withStatus reason word valid x s).regsFrom k n = s.regsFrom k n := by
  induction n generalizing k with
  | zero => rfl
  | succ n ih => exact congrArg (s.reg (BitVec.ofNat 4 k) :: ·) (ih (k + 1))

theorem setRegsFrom_withStatus (s : State) (k : Nat) (bs : List Byte) :
    (withStatus reason word valid x s).setRegsFrom k bs = withStatus reason word valid x (s.setRegsFrom k bs) := by
  induction bs generalizing s k with
  | nil => rfl
  | cons b rest ih => exact ih (s.setReg (BitVec.ofNat 4 k) b) (k + 1)

theorem fault?_withStatus (i : Instr) (s : State) : i.fault? (withStatus reason word valid x s) = i.fault? s := rfl

/-- The update reads no status register, and FX0A alone writes one, WAIT_X (R33). -/
theorem effect_withStatus (i : Instr) (s : State) :
    ∃ y, i.effect (withStatus reason word valid x s) = withStatus reason word valid y (i.effect s) := by
  cases i with
  | ldVxK y => exact ⟨y, rfl⟩
  | skp y | sknp y =>
    refine ⟨x, ?_⟩
    simp only [Instr.effect]
    rw [show (withStatus reason word valid x s).reg y = s.reg y from rfl, keyDown_withStatus]
    rfl
  | ldMemVx y =>
    refine ⟨x, ?_⟩
    simp only [Instr.effect, State.regsUpTo, regsFrom_withStatus]
    rfl
  | ldVxMem y =>
    refine ⟨x, ?_⟩
    simp only [Instr.effect, setRegsFrom_withStatus]
    rfl
  | _ => exact ⟨x, rfl⟩

end Status

/-- Settles O53: the fault condition reads no status register, and neither the halt nor the update does. -/
theorem statusRegistersAreInvisibleToPrograms : Obligations.StatusRegistersAreInvisibleToPrograms := by
  unfold Obligations.StatusRegistersAreInvisibleToPrograms
  intro i s t r w v x hexec
  change ∃ u, exec i (withStatus r w v x s) = .next u ∧ _
  rcases exec_next_cases hexec with ⟨hfault, rfl⟩ | ⟨reason, hfault, rfl⟩
  · obtain ⟨y, heffect⟩ := effect_withStatus (reason := r) (word := w) (valid := v) (x := x) i s
    refine ⟨_, exec_of_no_fault ((fault?_withStatus i s).trans hfault), ?_⟩
    rw [heffect]
    exact onlyChanges_withStatus (i.effect s)
  · exact ⟨_, exec_of_fault ((fault?_withStatus i s).trans hfault),
      onlyChanges_withStatus (reason := reason) (word := encode i) (valid := true) (x := x) _⟩

end Sys2Proof

/-! # Single instructions (41_control_flow.md, 42_register_immediate.md, 43_alu.md, 44_index_and_memory.md,
46_keys_and_timers.md)

Each instruction here is its update, whose frame is what the instruction writes. -/

namespace Sys2Proof

open Machine

/-! ## Calls and returns (R87, R88, R90) -/

/-- With room on the stack neither call raises an error (R27). -/
theorem stackFull_eq_false {s : State} (hroom : s.stackDepth ≠ .bounded s.sp) : s.stackFull = false :=
  Bool.eq_false_iff.mpr (mt (stackFull_iff s).mp hroom)

theorem exec_call_of_room {nnn : Addr12} {s : State} {i : Instr} (hi : i ∈ [Instr.sys nnn, Instr.call nnn])
    (hroom : s.stackDepth ≠ .bounded s.sp) :
    exec i s = .next ((s.setStack ((s.pc + 2#16) :: s.stack)).setPc (zext12 nnn)) := by
  rcases List.mem_pair.mp hi with rfl | rfl <;>
    exact exec_of_no_fault (if_neg (by simp [stackFull_eq_false hroom]))

/-- Settles O16: the update of both calls is a write of the stack and of PC. -/
theorem callPushesTheReturnAddress : Obligations.CallPushesTheReturnAddress := by
  unfold Obligations.CallPushesTheReturnAddress
  intro nnn s i hi hroom
  have hframe : OnlyChanges [] [.pc, .stack] s ((s.setStack ((s.pc + 2#16) :: s.stack)).setPc (zext12 nnn)) :=
    onlyChanges_effect (.call nnn) s
  exact ⟨_, exec_call_of_room hi hroom, rfl, zext12_toNat nnn, hframe⟩

/-- Settles O19: the call leaves P + 2 on top of the stack as it was, and the return takes it off. -/
theorem returnResumesAfterTheCall : Obligations.ReturnResumesAfterTheCall := by
  unfold Obligations.ReturnResumesAfterTheCall
  intro nnn s t r hcall hroom hstack
  have ht : t.stack = (s.pc + 2#16) :: s.stack := by
    have hnext := (exec_call_of_room (nnn := nnn) (by simp) hroom).symm.trans hcall
    cases hnext
    rfl
  rcases exec_ret_cases r with ⟨hempty, -⟩ | ⟨target, rest, hcons, hret⟩
  · simp [hstack, ht] at hempty
  · obtain ⟨rfl, rfl⟩ : s.pc + 2#16 = target ∧ s.stack = rest := by simpa [hstack, ht] using hcons
    exact ⟨_, hret, rfl, rfl⟩

/-! ## The random byte, logic and shifts -/

/-- Settles O24: the update is one call of the port and a register write of the masked answer. -/
theorem randomByteIsMasked : Obligations.RandomByteIsMasked := by
  unfold Obligations.RandomByteIsMasked
  intro x nn s
  exact ⟨_, exec_of_no_fault (i := .rnd x nn) rfl, reg_setReg_same _ x _, rfl, rfl, onlyChanges_effect (.rnd x nn) s⟩

/-- Settles O26: each of the three instructions is a register write of its own value. -/
theorem logicWritesTheDestinationAlone : Obligations.LogicWritesTheDestinationAlone := by
  unfold Obligations.LogicWritesTheDestinationAlone
  intro x y s i b hrow
  have hexec : i.wellFormed = true ∧ exec i s = .next (s.setReg x b).advance := by
    simp only [List.mem_cons, List.not_mem_nil, or_false] at hrow
    rcases hrow with h | h | h <;> cases h <;> exact ⟨rfl, rfl⟩
  obtain ⟨hwf, hexec⟩ := hexec
  exact (regWrite_spec hwf rfl hexec).2

section Shifts
variable (a : Byte)

theorem shiftRightFlag_toNat : (shiftRightFlag a).toNat = a.toNat % 2 := by
  rw [shiftRightFlag, BitVec.toNat_and]
  exact Nat.and_one_is_mod _

theorem shiftLeftFlag_toNat : (shiftLeftFlag a).toNat = a.toNat / 128 := by
  have hbit : a.toNat / 128 < 2 := by omega
  rw [shiftLeftFlag, BitVec.toNat_and, BitVec.toNat_ushiftRight, Nat.shiftRight_eq_div_pow]
  exact (Nat.and_one_is_mod _).trans (Nat.mod_eq_of_lt hbit)

theorem byte_shiftRight_toNat : (a >>> 1).toNat = a.toNat / 2 := by
  rw [BitVec.toNat_ushiftRight, Nat.shiftRight_eq_div_pow, pow_one]

theorem byte_shiftLeft_toNat : (a <<< 1).toNat = a.toNat * 2 % 256 := by
  rw [BitVec.toNat_shiftLeft, Nat.shiftLeft_eq, pow_one]

end Shifts

/-- Settles O29: each shift is a flag write of the bit shifted out and a register write of the shifted byte. -/
theorem shiftsMoveOneBitIntoVf : Obligations.ShiftsMoveOneBitIntoVf := by
  unfold Obligations.ShiftsMoveOneBitIntoVf
  intro x y s i r f hrow
  have hshift : ∃ flag b : Byte, exec i s = writeFlagThenReg flag x b s ∧ b.toNat = r ∧ flag.toNat = f := by
    rcases List.mem_pair.mp hrow with h | h <;> cases h
    · exact ⟨_, _, rfl, byte_shiftRight_toNat _, shiftRightFlag_toNat _⟩
    · exact ⟨_, _, rfl, byte_shiftLeft_toNat _, shiftLeftFlag_toNat _⟩
  obtain ⟨flag, b, hexec, rfl, rfl⟩ := hshift
  obtain ⟨t, hnext, hreg, hvf, hpc, hframe⟩ := flagWrite_spec hexec
  exact ⟨t, hnext, by rw [hreg], fun hx => by rw [hvf hx], hpc, hframe⟩

/-! ## The address register (R112, R113) -/

/-- Settles O31: the update is a write of I with the sum of words. -/
theorem addToIndexWritesNoFlag : Obligations.AddToIndexWritesNoFlag := by
  unfold Obligations.AddToIndexWritesNoFlag
  intro x s
  have hsum : (s.i + zext8 (s.reg x)).toNat = (s.i.toNat + (s.reg x).toNat) % 65536 := by
    rw [BitVec.toNat_add, zext8_toNat]
  exact ⟨_, exec_of_no_fault (i := .addI x) rfl, hsum, rfl, onlyChanges_effect (.addI x) s⟩

/-- Settles O32: the update is a write of I with the configuration's answer. -/
theorem glyphAddressGoesToI : Obligations.GlyphAddressGoesToI := by
  unfold Obligations.GlyphAddressGoesToI
  intro x s
  exact ⟨_, exec_of_no_fault (i := .ldF x) rfl, rfl, rfl, onlyChanges_effect (.ldF x) s⟩

/-! ## Keys and timers (R122-R128) -/

/-- A skip on the answer of `KeyDown`: with no input source there is no answer, so no skip and no call (D16). -/
theorem keySkip_pc_calls (s : State) (k : Byte) (wanted : Bool) :
    ((keyDown k s).2.skipIf ((keyDown k s).1 == some wanted)).pc =
      (if s.inputAttached = true ∧ Config.keyDown s.keyDownCalls k = wanted then s.pc + 4#16 else s.pc + 2#16) ∧
    ((keyDown k s).2.skipIf ((keyDown k s).1 == some wanted)).keyDownCalls =
      s.keyDownCalls + (if s.inputAttached then 1 else 0) := by
  rcases keyDown_cases k s with ⟨hin, hcall⟩ | ⟨hin, hcall⟩ <;> simp [hcall, hin]

/-- Settles O41: each of the two instructions is a skip on the answer it wants. -/
theorem keySkips : Obligations.KeySkips := by
  unfold Obligations.KeySkips
  intro x s i wanted hrow
  obtain ⟨hpc, hcalls⟩ := keySkip_pc_calls s (s.reg x) wanted
  rcases List.mem_pair.mp hrow with h | h <;> cases h
  · exact ⟨_, exec_of_no_fault (i := .skp x) rfl, hpc, hcalls, onlyChanges_effect (.skp x) s⟩
  · exact ⟨_, exec_of_no_fault (i := .sknp x) rfl, hpc, hcalls, onlyChanges_effect (.sknp x) s⟩

/-- Settles O42: the update begins a wait. -/
theorem keyWaitBegins : Obligations.KeyWaitBegins := by
  unfold Obligations.KeyWaitBegins
  intro x s
  exact ⟨_, exec_of_no_fault (i := .ldVxK x) rfl, rfl, rfl, onlyChanges_effect (.ldVxK x) s⟩

/-- Settles O43: the update is a register write of the delay counter. -/
theorem delayTimerIsRead : Obligations.DelayTimerIsRead := by
  unfold Obligations.DelayTimerIsRead
  intro x s
  exact ⟨_, exec_of_no_fault (i := .ldVxDt x) rfl, reg_setReg_same s x _, rfl, onlyChanges_effect (.ldVxDt x) s⟩

/-- Settles O44: each update is a write of one counter. -/
theorem timersAreSet : Obligations.TimersAreSet := by
  unfold Obligations.TimersAreSet
  intro x s
  exact ⟨⟨_, exec_of_no_fault (i := .ldDtVx x) rfl, rfl, rfl, onlyChanges_effect (.ldDtVx x) s⟩,
    ⟨_, exec_of_no_fault (i := .ldStVx x) rfl, rfl, rfl, onlyChanges_effect (.ldStVx x) s⟩⟩

end Sys2Proof

/-! # Memory transfers and loads (44_index_and_memory.md R114-R116, 10_state.md R41, 20_memory.md R62)

A span that fits is written byte by byte; the value a transfer puts at each place is read off its list of bytes. -/

namespace Sys2Proof

open Machine

section Spans
variable {m : Memory} {a k n : Nat} {bs : List Byte}

theorem spanInBounds_ne_false (h : n = 0 ∨ a + n ≤ 0x1000) : ¬ spanInBounds a n = false := by
  rw [spanInBounds_eq_false_iff]
  omega

theorem read_writeBytes_inside (hwf : m.wf = true) (hk : k < bs.length) :
    (m.writeBytes a bs).read (a + k) = bs.getD k 0#8 := by
  rw [read_writeBytes m a (a + k) bs hwf, if_pos (by omega), Nat.add_sub_cancel_left]

theorem read_writeBytes_outside (hwf : m.wf = true) (hk : k < a ∨ a + bs.length ≤ k) :
    (m.writeBytes a bs).read k = m.read k := by
  rw [read_writeBytes m a k bs hwf, if_neg (by omega)]

end Spans

/-- A register that FX55 stores reads back from its own place in the span (R115). -/
theorem read_storedReg {s : State} {x j : Reg} (hwf : s.mem.wf = true) (hj : j.toNat ≤ x.toNat) :
    (s.mem.writeBytes s.base (s.regsUpTo x)).read (s.base + j.toNat) = s.reg j := by
  have hlt : j.toNat < x.toNat + 1 := Nat.lt_succ_of_le hj
  rw [read_writeBytes_inside hwf (by rwa [regsUpTo_length]), List.getD_eq_getElem?_getD, State.regsUpTo, regCount,
    regsFrom_getElem? s 0 _ _ hlt, Nat.zero_add, BitVec.ofNat_toNat, BitVec.setWidth_eq, Option.getD_some]

/-- Settles O33: the update writes the three digits, each of which fits a byte. -/
theorem decimalDigitsAreStored : Obligations.DecimalDigitsAreStored := by
  unfold Obligations.DecimalDigitsAreStored
  intro x s hwf hbound
  have hexec : exec (.ldB x) s = .next ((Instr.ldB x).effect s) :=
    exec_of_no_fault (if_neg (spanInBounds_ne_false (.inr hbound)))
  have hdigit : ∀ k, k < 3 → ((Instr.ldB x).effect s).mem.read (s.base + k) = (decimalDigits (s.reg x)).getD k 0#8 :=
    fun k hk => read_writeBytes_inside hwf hk
  have hoctet : (s.reg x).toNat < 256 := (s.reg x).isLt
  refine ⟨_, hexec, ?_, ?_, ?_, fun a ha => read_writeBytes_outside hwf (ha.imp_right id), rfl,
    onlyChanges_effect (.ldB x) s⟩
  · rw [← Nat.add_zero s.base, hdigit 0 (by decide)]
    exact Nat.mod_eq_of_lt (by omega)
  · rw [hdigit 1 (by decide)]
    exact Nat.mod_eq_of_lt (by omega)
  · rw [hdigit 2 (by decide)]
    exact Nat.mod_eq_of_lt (by omega)

/-- Settles O34: the update writes the registers' values in order, and nothing else but PC. -/
theorem registersAreStored : Obligations.RegistersAreStored := by
  unfold Obligations.RegistersAreStored
  intro x s hwf hbound
  have hexec : exec (.ldMemVx x) s = .next ((Instr.ldMemVx x).effect s) :=
    exec_of_no_fault (if_neg (spanInBounds_ne_false (.inr hbound)))
  refine ⟨_, hexec, fun j hj => read_storedReg hwf hj, fun a ha => ?_, rfl,
    onlyChanges_effect (.ldMemVx x) s⟩
  exact read_writeBytes_outside hwf (by rw [regsUpTo_length]; omega)

/-- Settles O35: the update writes the span's bytes to the registers in order, and nothing else but PC. -/
theorem registersAreLoaded : Obligations.RegistersAreLoaded := by
  unfold Obligations.RegistersAreLoaded
  intro x s hbound
  have hexec : exec (.ldVxMem x) s = .next ((Instr.ldVxMem x).effect s) :=
    exec_of_no_fault (if_neg (spanInBounds_ne_false (.inr hbound)))
  obtain ⟨hregs, hparts⟩ := onlyChanges_effect (.ldVxMem x) s
  refine ⟨_, hexec, fun j hj => ?_, fun j hj => ?_, by simp [Instr.effect], hparts⟩
  · have hlen : 0 + (s.mem.readBytes s.base (x.toNat + 1)).length ≤ 16 := by
      rw [readBytes_length]
      omega
    calc ((Instr.ldVxMem x).effect s).reg j
      _ = (s.mem.readBytes s.base (x.toNat + 1)).getD (j.toNat - 0) 0#8 := by
        refine (reg_setRegsFrom s 0 _ hlen j).trans (if_pos ?_)
        rw [readBytes_length]
        omega
      _ = s.mem.read (s.base + j.toNat) := readBytes_getD _ _ _ _ (Nat.lt_succ_of_le hj)
  · exact hregs j (mt mem_regsWritten_ldVxMem.mp (Nat.not_le.mpr hj))

/-- Settles O37: the word's two bytes are V0 and V1, which the store puts where PC then points, and the engine still
runs. -/
theorem storedCodeIsExecuted : Obligations.StoredCodeIsExecuted := by
  unfold Obligations.StoredCodeIsExecuted
  intro x s w i hwf hrun hbase hx hbound hw hdecode
  have hstore := registersAreStored
  unfold Obligations.RegistersAreStored at hstore
  obtain ⟨t, hexec, hread, -, hadvance, -, hkept⟩ := hstore x s hwf hbound
  have hpc : t.pc.toNat = s.base := by
    rw [hadvance, BitVec.toNat_add, hbase]
    exact Nat.mod_eq_of_lt (by rw [BitVec.toNat_ofNat]; omega)
  have hhigh : t.mem.read t.pc.toNat = s.reg 0x0#4 := hpc ▸ hread 0x0#4 (Nat.zero_le _)
  have hlow : t.mem.read (t.pc.toNat + 1) = s.reg 0x1#4 := hpc ▸ hread 0x1#4 hx
  have hrun' : t.runState = .running := (hkept .runState (by simp)).trans hrun
  have hfetch : fetch t = .ok w := fetch_eq_ok (by omega) (by rw [hw, hhigh, hlow])
  exact ⟨t, hexec, engineStep_instr hrun' hfetch hdecode, step_instr hrun' hfetch hdecode⟩

/-- Settles O59: the two cases of a load are those of the statement. -/
theorem loadCopiesOrFails : Obligations.LoadCopiesOrFails := by
  unfold Obligations.LoadCopiesOrFails
  intro offset bytes s hwf
  rcases load_cases offset bytes s with ⟨hfits, hload⟩ | ⟨hlarge, hload⟩
  · rw [if_neg (by omega)]
    exact ⟨_, hload, fun k hk => read_writeBytes_inside hwf hk, fun a ha => read_writeBytes_outside hwf ha,
      (OnlyChanges.refl s).setMem (by simp) _⟩
  · rw [if_pos hlarge]
    exact hload

end Sys2Proof

/-! # Drawing (45_display.md R118-R121)

The draw is `drawSprite` on the bytes from I on, and VF is its collision flag. Drawing twice is two draws of the same
sprite, since the first keeps memory, I and every register but VF. -/

namespace Sys2Proof

open Machine

theorem readBytes_eq_map (m : Memory) (a n : Nat) :
    m.readBytes a n = (List.range n).map fun r => m.read (a + r) := by
  induction n generalizing a with
  | zero => rfl
  | succ n ih =>
    rw [Memory.readBytes, ih, List.range_succ_eq_map, List.map_cons, List.map_map]
    refine congrArg (m.read a :: ·) (List.map_congr_left fun r _ => ?_)
    exact congrArg m.read (Nat.succ_add_eq_add_succ a r)

theorem flagByte_eq_one_iff (c : Bool) : flagByte c = 0x01#8 ↔ c = true := by
  cases c <;> simp [flagByte]

theorem flagByte_eq_zero_of_ne_one {c : Bool} (h : flagByte c ≠ 0x01#8) : flagByte c = 0x00#8 := by
  cases c
  · rfl
  · exact absurd rfl h

/-- Settles O39: the sprite of the statement is the span read at I, and `drawSprite` does what the statement says. -/
theorem drawXorsTheSprite : Obligations.DrawXorsTheSprite := by
  unfold Obligations.DrawXorsTheSprite
  intro x y n s rows hbound hrows
  have hexec : exec (.drw x y n) s = .next ((Instr.drw x y n).effect s) :=
    exec_of_no_fault (if_neg (spanInBounds_ne_false (by simp only [Instr.transferLength]; omega)))
  rw [← readBytes_eq_map] at hrows
  have hlen : rows.length ≤ 32 := by
    rw [hrows, readBytes_length]
    omega
  obtain ⟨hcovered, hrest, hcollided⟩ := drawSprite_spec s.fb (s.reg x) (s.reg y) rows hlen
  subst hrows
  have hvf : ((Instr.drw x y n).effect s).vf = flagByte (drawSprite s.fb (s.reg x) (s.reg y)
      (s.mem.readBytes s.base n.toNat)).collided := reg_setReg_same _ regF _
  refine ⟨_, hexec, hcovered, hrest, ?_, ?_, rfl, onlyChanges_effect (.drw x y n) s⟩
  · rw [hvf, flagByte_eq_one_iff, hcollided]
  · rw [hvf]
    exact flagByte_eq_zero_of_ne_one

/-- Settles O40: the second draw is of the same sprite, so each covered pixel is flipped twice, and it was set before
the second draw exactly when it was clear before the first. -/
theorem drawingTwiceRestoresTheScreen : Obligations.DrawingTwiceRestoresTheScreen := by
  unfold Obligations.DrawingTwiceRestoresTheScreen
  intro x y n s rows hx hy hbound hrows
  have hdraw := drawXorsTheSprite
  unfold Obligations.DrawXorsTheSprite at hdraw
  obtain ⟨t, hexec, hcovered, hrest, -, -, -, hregs, hparts⟩ := hdraw x y n s rows hbound hrows
  have hbase : t.base = s.base := congrArg BitVec.toNat (hparts .i (by simp))
  have hrows' : rows = (List.range n.toNat).map fun r => t.mem.read (t.base + r) := by
    have hmem : ∀ a, t.mem.read a = s.mem.read a := hparts .mem (by simp)
    simpa only [hbase, hmem] using hrows
  obtain ⟨u, hexec', hcovered', hrest', hvf', -⟩ := hdraw x y n t rows (hbase ▸ hbound) hrows'
  rw [hregs x (by simpa using hx), hregs y (by simpa using hy)] at hcovered' hrest' hvf'
  refine ⟨t, u, hexec, hexec', fun px py => ?_, hvf'.trans ?_⟩
  · by_cases h : SpriteCovers (s.reg x).toNat (s.reg y).toNat rows px py
    · rw [hcovered' px py h, hcovered px py h, Bool.not_not]
    · rw [hrest' px py h, hrest px py h]
  · refine exists_congr fun px => exists_congr fun py => and_congr_right fun h => ?_
    rw [hcovered px py h, Bool.not_eq_true']

end Sys2Proof

/-! # Steps and ticks (40_execution_loop.md R76-R85, 60_exceptions.md R139, 70_reset_and_hazards.md)

A step of the machine is the ticks that fall before it, which change the timer device alone, and the engine's step. -/

namespace Sys2Proof

open Machine

/-! ## The ticks (R64, R85, R139) -/

section Ticks
variable (s : State)

theorem onlyChanges_tick : OnlyChanges [] [.dt, .st] s (tick s) :=
  ⟨fun _ _ => rfl, fun p hp => by
    have hkept := p.kept_refl s
    cases p with
    | dt | st => simp at hp
    | _ => exact hkept⟩

theorem onlyChanges_betweenSteps : OnlyChanges [] tickParts s (betweenSteps s) :=
  ⟨fun _ _ => rfl, fun p hp => by
    have hkept := p.kept_refl s
    cases p with
    | dt | st | tickDraws => simp [tickParts] at hp
    | _ => exact hkept⟩

theorem elapse_zero : elapse 0 s = s := by
  simp [elapse, countDownBy_none]

theorem elapse_succ (n : Nat) : elapse (n + 1) s = elapse n (tick s) := by
  simp [elapse, tick, countDownBy_succ]

/-- `Tick` transitions are elapsed time of the device. -/
theorem transitions_ticks (n : Nat) (rest : List Transition) :
    transitions (List.replicate n .tick ++ rest) s = transitions rest (elapse n s) := by
  induction n generalizing s with
  | zero => rw [elapse_zero]; rfl
  | succ n ih =>
    rw [List.replicate_succ, List.cons_append, transitions_tick, ih, elapse_succ]

theorem transitions_singleton_step : transitions [.step] s = engineStep s := by
  simp only [transitions, transition]
  cases engineStep s <;> rfl

end Ticks

/-- Settles O60: the step is so by definition; a tick takes 1 off each counter that is not 0, and ticks add up. -/
theorem ticksFallBetweenSteps : Obligations.TicksFallBetweenSteps := by
  unfold Obligations.TicksFallBetweenSteps
  intro s
  have htransitions : step s = transitions (List.replicate (Config.ticks s.tickDraws) .tick ++ [.step])
      { s with tickDraws := s.tickDraws + 1 } := by
    rw [transitions_ticks, transitions_singleton_step]
    rfl
  exact ⟨rfl, htransitions, countDownBy_toNat _ _, countDownBy_toNat _ _, rfl, onlyChanges_betweenSteps s,
    countDown_toNat _, countDown_toNat _, onlyChanges_tick s⟩

/-- Settles O45: the ticks between the two instructions are elapsed time, which takes their number off the value. -/
theorem delayReadBackIsNoLarger : Obligations.DelayReadBackIsNoLarger := by
  unfold Obligations.DelayReadBackIsNoLarger
  intro x y s n
  have hticks : transitions (List.replicate n .tick) ((Instr.ldDtVx x).effect s) =
      .next (elapse n ((Instr.ldDtVx x).effect s)) := by
    rw [← List.append_nil (List.replicate n _), transitions_ticks]
    rfl
  have hread : (((Instr.ldVxDt y).effect (elapse n ((Instr.ldDtVx x).effect s))).reg y) = countDownBy n (s.reg x) :=
    reg_setReg_same _ y _
  refine ⟨_, _, _, exec_of_no_fault rfl, hticks, exec_of_no_fault rfl, ?_, ?_, fun hzero => ?_⟩
  · rw [hread, countDownBy_toNat]
  · rw [hread, countDownBy_toNat]
    exact Nat.sub_le _ _
  · rw [hread, hzero, countDownBy_zero_counter]

/-! ## The engine's step (R76, R77, R126) -/

/-- Settles O6: the fetch gives the word of the two bytes at PC, before the ticks and after them. -/
theorem stepRunsTheInstructionAtPc : Obligations.StepRunsTheInstructionAtPc := by
  unfold Obligations.StepRunsTheInstructionAtPc
  intro s w i hrun hpc hw hdecode
  have hfetch : fetch s = .ok w := fetch_eq_ok hpc hw
  exact ⟨engineStep_instr hrun hfetch hdecode, step_instr hrun hfetch hdecode⟩

/-- Settles O8: by the cases of the fetch, of which the one that gives a word is before 0xFFF. -/
theorem fetchAtTheEndOfMemoryHalts : Obligations.FetchAtTheEndOfMemoryHalts := by
  unfold Obligations.FetchAtTheEndOfMemoryHalts
  intro s hrun hpc
  rcases fetch_cases s with ⟨hend, hfetch⟩ | ⟨hlast, hfetch⟩ | ⟨hword, -⟩
  · rw [if_neg (by omega)]
    exact ⟨_, engineStep_fetchHalt hrun hfetch, rfl, rfl, rfl, rfl, onlyChanges_raiseHalt _ none s⟩
  · rw [if_pos hlast]
    exact ⟨_, engineStep_fetchHalt hrun hfetch, rfl, rfl, rfl, rfl, onlyChanges_raiseHalt _ none s⟩
  · omega

section KeyWait
variable {regs : List Reg} {parts : List Part} {s t : State}

theorem onlyChanges_nextKeyCalls (n : Nat) : OnlyChanges [] [.nextKeyCalls] s { s with nextKeyCalls := n } :=
  ⟨fun _ _ => rfl, fun p hp => by
    have hkept := p.kept_refl s
    cases p with
    | nextKeyCalls => simp at hp
    | _ => exact hkept⟩

theorem OnlyChanges.resume (h : OnlyChanges regs parts s t) (hrun : .runState ∈ parts) :
    OnlyChanges regs parts s t.resume :=
  h.trans ⟨fun _ _ => rfl, fun p hp => by
    have hkept := p.kept_refl t
    cases p with
    | runState => exact absurd hrun hp
    | _ => exact hkept⟩

end KeyWait

theorem zext4_toNat (key : Nibble) : (zext4 key).toNat = key.toNat :=
  BitVec.toNat_setWidth_of_le (by decide)

/-- Settles O10: by the three cases of the key-wait step. -/
theorem keyWaitStepPollsOnce : Obligations.KeyWaitStepPollsOnce := by
  unfold Obligations.KeyWaitStepPollsOnce
  intro s hwait
  rw [engineStep_awaitKey hwait]
  rcases keyWaitStep_cases s with ⟨hin, hstep⟩ | ⟨hin, hkey, hstep⟩ | ⟨hin, key, hkey, hstep⟩
  · exact ⟨s, hstep, fun _ => rfl, fun h => by simp [hin] at h⟩
  · refine ⟨_, hstep, fun h => by simp [hin] at h, fun _ => ⟨rfl, ?_⟩⟩
    rw [hkey]
    exact onlyChanges_nextKeyCalls _
  · refine ⟨_, hstep, fun h => by simp [hin] at h, fun _ => ⟨rfl, ?_⟩⟩
    rw [hkey]
    have hpolled : OnlyChanges [s.waitX] [.pc, .runState, .nextKeyCalls] s
        { s with nextKeyCalls := s.nextKeyCalls + 1 } := (onlyChanges_nextKeyCalls _).mono (by simp) (by simp)
    refine ⟨?_, rfl, rfl, ((hpolled.setReg (by simp) _).advance (by simp)).resume (by simp)⟩
    rw [reg_resume, reg_advance, reg_setReg_same, zext4_toNat]

/-- Settles O11: by the cases of the engine's step, none of which ends in a fault or a refusal. -/
theorem everyStepHasANextState : Obligations.EveryStepHasANextState := by
  unfold Obligations.EveryStepHasANextState
  intro s
  change ∃ t, engineStep (betweenSteps s) = .next t
  rcases engineStep_cases (betweenSteps s) with ⟨-, h⟩ | ⟨-, h⟩ | ⟨-, -, h⟩ | ⟨-, -, h⟩ |
    ⟨-, -, w, -, ⟨i, -, h⟩ | ⟨u, -, h⟩⟩
  · exact ⟨_, h⟩
  · rcases keyWaitStep_cases (betweenSteps s) with ⟨-, hwait⟩ | ⟨-, -, hwait⟩ | ⟨-, key, -, hwait⟩ <;>
      exact ⟨_, h.trans hwait⟩
  · exact ⟨_, h⟩
  · exact ⟨_, h⟩
  · exact ⟨_, h.trans (exec_eq i _)⟩
  · exact ⟨_, h⟩

/-- The ways the engine's step can go, by its run state and what the fetch finds (R76, R77, R83, R126). -/
inductive EngineMove (s : State) : State → Prop
  | halted (hrun : s.runState = .halted) : EngineMove s s
  | noKey (hrun : s.runState = .awaitKey) (n : Nat) : EngineMove s { s with nextKeyCalls := n }
  | key (hrun : s.runState = .awaitKey) (n : Nat) (x : Reg) (b : Byte) :
      EngineMove s (({ s with nextKeyCalls := n } : State).setReg x b).advance.resume
  | endOfMemory (hrun : s.runState = .running) (hpc : 0x1000 ≤ s.pc.toNat) :
      EngineMove s (raiseHalt .endOfMemory none s)
  | lastByte (hrun : s.runState = .running) (hpc : s.pc.toNat = 0xFFF) : EngineMove s (raiseHalt .outOfBounds none s)
  | instr (hrun : s.runState = .running) (hpc : s.pc.toNat ≤ 0xFFE) (i : Instr) (t : State)
      (hexec : exec i s = .next t) : EngineMove s t
  | unknown (hrun : s.runState = .running) (hpc : s.pc.toNat ≤ 0xFFE) (e : Event) : EngineMove s (s.emit e).advance

theorem engineMove_of_next {s t : State} (h : engineStep s = .next t) : EngineMove s t := by
  rcases engineStep_cases s with ⟨hrun, hstep⟩ | ⟨hrun, hstep⟩ | ⟨hrun, hpc, hstep⟩ | ⟨hrun, hpc, hstep⟩ |
    ⟨hrun, hpc, w, -, ⟨i, -, hstep⟩ | ⟨u, -, hstep⟩⟩ <;> rw [hstep] at h
  · cases h
    exact .halted hrun
  · rcases keyWaitStep_cases s with ⟨-, hwait⟩ | ⟨-, -, hwait⟩ | ⟨-, key, -, hwait⟩ <;> cases hwait.symm.trans h
    · exact .noKey hrun s.nextKeyCalls
    · exact .noKey hrun (s.nextKeyCalls + 1)
    · exact .key hrun (s.nextKeyCalls + 1) s.waitX (zext4 key)
  · cases h
    exact .endOfMemory hrun hpc
  · cases h
    exact .lastByte hrun hpc
  · exact .instr hrun hpc i t h
  · cases h
    exact .unknown hrun hpc ⟨s.pc, u⟩

/-- Settles O54: no move of the engine writes the configuration, and no instruction does. -/
theorem configurationIsConstant : Obligations.ConfigurationIsConstant := by
  unfold Obligations.ConfigurationIsConstant
  intro s t hstep
  have hmove : EngineMove (betweenSteps s) t := engineMove_of_next hstep
  cases hmove with
  | instr _ _ i _ hexec => exact (onlyChanges_exec hexec).2 .parameters (by cases i <;> simp)
  | _ => exact ⟨rfl, rfl⟩

/-! ## Runs that change nothing (R82, R148) -/

/-- A run through states that the engine's step leaves as they are, whatever ticks fall between the steps. -/
theorem run_of_fixed {P : State → Prop} (hfixed : ∀ s, P s → engineStep s = .next s)
    (hticks : ∀ s, P s → P (betweenSteps s)) (k : Nat) {s : State} (hs : P s) :
    ∃ t, core.run k s = .next t ∧ OnlyChanges [] tickParts s t := by
  induction k generalizing s with
  | zero => exact ⟨s, rfl, OnlyChanges.refl s⟩
  | succ k ih =>
    have hstep : step s = .next (betweenSteps s) := hfixed _ (hticks s hs)
    obtain ⟨t, hrun, hframe⟩ := ih (hticks s hs)
    exact ⟨t, (run_next k hstep).trans hrun, (onlyChanges_betweenSteps s).trans hframe⟩

/-- Settles O9: HALTED is kept by the ticks, and the engine's step changes nothing in it. -/
theorem haltedIsAbsorbing : Obligations.HaltedIsAbsorbing := by
  unfold Obligations.HaltedIsAbsorbing
  intro s k hhalted
  exact ⟨engineStep_halted hhalted,
    run_of_fixed (P := fun s => s.runState = .halted) (fun _ => engineStep_halted) (fun _ h => h) k hhalted⟩

/-- Settles O55: a jump that finds its own address in PC writes what PC holds, and the ticks change nothing it reads. -/
theorem selfJumpChangesNothing : Obligations.SelfJumpChangesNothing := by
  unfold Obligations.SelfJumpChangesNothing
  intro s w nnn k hrun hpc hw hdecode htarget
  have hfixed : ∀ r : State, r.runState = .running ∧ fetch r = .ok w ∧ zext12 nnn = r.pc → engineStep r = .next r := by
    rintro r ⟨hrun, hfetch, htarget⟩
    rw [engineStep_instr hrun hfetch hdecode, exec_jp, htarget]
    rfl
  have hs : s.runState = .running ∧ fetch s = .ok w ∧ zext12 nnn = s.pc :=
    ⟨hrun, fetch_eq_ok hpc hw, BitVec.eq_of_toNat_eq ((zext12_toNat nnn).trans htarget)⟩
  exact ⟨hfixed s hs, run_of_fixed hfixed (fun _ h => h) k hs⟩

end Sys2Proof

/-! # Reset and the invariant (10_state.md R23-R38, 70_reset_and_hazards.md R144, R145)

The invariant has a part for every engine and a part for a halted one; a step that does not halt has to keep the first,
and a halt has to establish the second. -/

namespace Sys2Proof

open Machine

/-! ## Reset -/

theorem reg_reset (j : Reg) : State.reset.reg j = 0x00#8 := by
  simp [State.reset, State.reg]

theorem pixel_reset (x y : Nat) : State.reset.fb.pixel x y = false := pixel_clear x y

/-- Settles O58: the host's reset is the reset state in every part the statement reads. -/
theorem resetLeavesTheResetValues : Obligations.ResetLeavesTheResetValues := by
  unfold Obligations.ResetLeavesTheResetValues
  intro s
  refine ⟨rfl, rfl, ?_⟩
  rintro t (rfl | rfl) <;>
    exact ⟨rfl, reg_reset, rfl, fun _ => rfl, rfl, pixel_reset, rfl, rfl, rfl, rfl, rfl⟩

/-! ## Ways to meet the invariant -/

section Invariant
variable {s t : State}

/-- The status registers of an engine that has not halted (R31, R32). -/
theorem Inv.status_of_live (h : Inv s) (hlive : s.runState ≠ .halted) :
    s.haltReason = .none ∧ s.faultWordValid = false ∧ s.faultWord = 0x0000#16 := by
  have hvalid : s.faultWordValid = false := Bool.eq_false_iff.mpr (mt h.wordOnlyWhenHalted hlive)
  exact ⟨not_not.mp (mt h.reasonIffHalted.mp hlive), hvalid, h.noWordReadsZero hvalid⟩

/-- A step that halts the engine neither before nor after it has to keep memory, the stack and PC in bounds. -/
theorem Inv.of_live (h : Inv s) (hlive : s.runState ≠ .halted) (hlive' : t.runState ≠ .halted)
    (hreason : t.haltReason = s.haltReason)
    (hword : t.faultWord = s.faultWord ∧ t.faultWordValid = s.faultWordValid)
    (hmem : t.mem.wf = true ∧ t.mem.inRange = true)
    (hstack : (∀ n, t.stackDepth = .bounded n → t.sp ≤ n) ∧ ∀ a ∈ t.stack, a.toNat ≤ 0x1000)
    (hpc : t.pc.toNat ≤ 0x10FE) (hwait : t.runState = .awaitKey → t.pc.toNat ≤ 0xFFE) : Inv t := by
  obtain ⟨hnone, hinvalid, hzero⟩ := h.status_of_live hlive
  rw [hnone] at hreason
  rw [hzero, hinvalid] at hword
  obtain ⟨hword, hvalid⟩ := hword
  exact {
    memWf := hmem.1
    memInRange := hmem.2
    stackBound := hstack.1
    stackEntries := hstack.2
    pcBound := hpc
    waitPc := hwait
    reasonIffHalted := by simp [hreason, hlive']
    wordOnlyWhenHalted := by simp [hvalid]
    noWordReadsZero := fun _ => hword
    endOfMemoryPc := by simp [hreason]
    fatalPc := by simp [fatalEnd, hreason]
    stackFaultHasWord := by simp [hreason] }

/-- A halt establishes the invariant when its reason agrees with PC and with its word (R77, R130). -/
theorem Inv.raiseHalt {reason : HaltReason} {word : Option Word} (h : Inv s) (hreason : reason ≠ .none)
    (hend : reason = .endOfMemory → 0x1000 ≤ s.pc.toNat ∧ word = none)
    (hfatal : reason ≠ .endOfMemory → s.pc.toNat ≤ 0xFFF)
    (hstack : reason = .stackUnderflow ∨ reason = .stackOverflow → word.isSome = true) :
    Inv (raiseHalt reason word s) where
  memWf := h.memWf
  memInRange := h.memInRange
  stackBound := h.stackBound
  stackEntries := h.stackEntries
  pcBound := h.pcBound
  waitPc := by simp
  reasonIffHalted := by simp [hreason]
  wordOnlyWhenHalted := by simp
  noWordReadsZero := by cases word <;> simp
  endOfMemoryPc := fun he => ⟨(hend he).1, by simp [(hend he).2]⟩
  fatalPc := fun hf => hfatal (by rintro rfl; simp [fatalEnd] at hf)
  stackFaultHasWord := hstack

/-- The ticks of the timer device change nothing the invariant reads. -/
theorem Inv.betweenSteps (h : Inv s) : Inv (betweenSteps s) := { h with }

/-- Nor does the count of polls. -/
theorem Inv.nextKeyCalls (h : Inv s) (n : Nat) : Inv { s with nextKeyCalls := n } := { h with }

end Invariant

/-- Settles O57: at reset memory and the stack are empty, PC is 0x200 and nothing has halted. -/
theorem resetMeetsTheInvariant : Obligations.ResetMeetsTheInvariant := by
  unfold Obligations.ResetMeetsTheInvariant
  exact {
    memWf := rfl
    memInRange := rfl
    stackBound := fun n _ => Nat.zero_le n
    stackEntries := fun a ha => nomatch ha
    pcBound := by decide
    waitPc := nofun
    reasonIffHalted := by decide
    wordOnlyWhenHalted := nofun
    noWordReadsZero := fun _ => rfl
    endOfMemoryPc := nofun
    fatalPc := nofun
    stackFaultHasWord := by decide }

/-! ## What an instruction that raises no error keeps -/

section Effect
variable {i : Instr} {s : State}

theorem keyDown_mem (k : Byte) (s : State) : (keyDown k s).2.mem = s.mem := by
  rcases keyDown_cases k s with ⟨-, hcall⟩ | ⟨-, hcall⟩ <;> rw [hcall]

/-- A transfer that raises no error fits (R49). -/
theorem fits_of_no_fault {a n : Nat} {reason : HaltReason} (hn : 0 < n)
    (hfault : (if spanInBounds a n = false then some reason else none) = none) : a + n ≤ 0x1000 := by
  by_contra hlarge
  rw [if_pos (spanInBounds_eq_false_iff.mpr ⟨hn, by omega⟩)] at hfault
  cases hfault

/-- Memory stays in canonical form, and a store that raises no error lists no address outside it (R48, R56). -/
theorem effect_memory (hfault : i.fault? s = none) (hwf : s.mem.wf = true) (hrange : s.mem.inRange = true) :
    (i.effect s).mem.wf = true ∧ (i.effect s).mem.inRange = true := by
  cases i with
  | ldB x => exact ⟨wf_writeBytes _ _ _ hwf, inRange_writeBytes _ _ _ hrange (fits_of_no_fault (Nat.succ_pos 2) hfault)⟩
  | ldMemVx x =>
    have hfits : s.base + (x.toNat + 1) ≤ 0x1000 := fits_of_no_fault (by omega) hfault
    exact ⟨wf_writeBytes _ _ _ hwf, inRange_writeBytes _ _ _ hrange (by rwa [regsUpTo_length])⟩
  | skp _ | sknp _ => simp [Instr.effect, keyDown_mem, hwf, hrange]
  | ldVxMem _ => simp [Instr.effect, hwf, hrange]
  | _ => exact ⟨hwf, hrange⟩

/-- A call that raises no error has room for its entry, the address after it (R23, R25). -/
theorem effect_stack (hfault : i.fault? s = none) (hpc : s.pc.toNat ≤ 0xFFE)
    (hbound : ∀ n, s.stackDepth = .bounded n → s.sp ≤ n) (hentries : ∀ a ∈ s.stack, a.toNat ≤ 0x1000) :
    (∀ n, (i.effect s).stackDepth = .bounded n → (i.effect s).sp ≤ n) ∧
      ∀ a ∈ (i.effect s).stack, a.toNat ≤ 0x1000 := by
  obtain ⟨-, hkept⟩ := onlyChanges_effect i s
  obtain ⟨hdepth, -⟩ : Part.parameters.Kept s (i.effect s) := hkept .parameters (by cases i <;> simp)
  rw [hdepth]
  cases i with
  | sys nnn | call nnn =>
    have hroom : s.stackDepth ≠ .bounded s.sp := by
      rw [ne_eq, ← stackFull_iff]
      simpa [Instr.fault?] using hfault
    refine ⟨fun n hn => ?_, List.forall_mem_cons.mpr ⟨by bv_omega, hentries⟩⟩
    have hne : s.sp ≠ n := fun he => hroom (he ▸ hn)
    exact Nat.lt_of_le_of_ne (hbound n hn) hne
  | ret =>
    refine ⟨fun n hn => ?_, fun a ha => hentries a (List.mem_of_mem_tail ha)⟩
    have hpop : (Instr.ret.effect s).sp ≤ s.sp := by simp [Instr.effect, State.sp]
    exact hpop.trans (hbound n hn)
  | _ =>
    have hstack : _ = s.stack := hkept .stack (by simp)
    simp only [State.sp, hstack]
    exact ⟨hbound, hentries⟩

/-- An advance from where a word is fetched stays far below the bound (R23). -/
theorem advance_pc_le {p q : Word} (hp : p = q + 2#16) (hq : q.toNat ≤ 0xFFE) : p.toNat ≤ 0x10FE := by
  bv_omega

/-- So does a skip, in whichever order its two outcomes are written. -/
theorem skip_pc_le {p q : Word} {c : Prop} [Decidable c] (hq : q.toNat ≤ 0xFFE)
    (hp : p = (if c then q + 4#16 else q + 2#16) ∨ p = if c then q + 2#16 else q + 4#16) : p.toNat ≤ 0x10FE := by
  rcases hp with hp | hp <;> split at hp <;> bv_omega

/-- No instruction goes further than an indexed jump can, to 0xFFF + 0xFF (R23, R95). -/
theorem effect_pc_le (hrun : s.runState = .running) (hfault : i.fault? s = none) (hpc : s.pc.toNat ≤ 0xFFE)
    (hentries : ∀ a ∈ s.stack, a.toNat ≤ 0x1000) : (i.effect s).pc.toNat ≤ 0x10FE := by
  have hnext := nextPcFollowsTheTable
  unfold Obligations.NextPcFollowsTheTable at hnext
  have htable := hnext i s _ hrun (exec_of_no_fault hfault)
  rw [if_neg (effect_runState_ne_halted hrun)] at htable
  cases i with
  | jp nnn | call nnn | sys nnn | jpV0 nnn => exact le_of_eq_of_le htable (by omega)
  | ret => exact (hentries _ (List.mem_of_mem_head? htable)).trans (by decide)
  | seImm _ _ | seReg _ _ | skp _ | sknp _ => exact skip_pc_le hpc (.inl htable)
  | sneImm _ _ | sneReg _ _ => exact skip_pc_le hpc (.inr htable)
  | ldVxK _ => exact hpc.trans (by decide)
  | _ => exact advance_pc_le htable hpc

/-- Of the instructions FX0A alone begins a wait, and it leaves PC (R125). -/
theorem effect_waitPc (hrun : s.runState = .running) (hpc : s.pc.toNat ≤ 0xFFE)
    (hwait : (i.effect s).runState = .awaitKey) : (i.effect s).pc.toNat ≤ 0xFFE := by
  obtain ⟨-, hkept⟩ := onlyChanges_effect i s
  cases i with
  | ldVxK _ => exact hpc
  | _ =>
    have hsame : _ = s.runState := hkept .runState (by simp)
    rw [hsame, hrun] at hwait
    cases hwait

/-- The reasons an instruction halts with are not the fetch's END_OF_MEMORY (R130). -/
theorem fault?_ne_endOfMemory : i.fault? s ≠ some .endOfMemory := by
  unfold Instr.fault?
  split <;> split <;> simp

/-- Whichever way it ends, an instruction fetched by a running engine keeps the invariant. -/
theorem Inv.exec {t : State} (h : Inv s) (hrun : s.runState = .running) (hpc : s.pc.toNat ≤ 0xFFE)
    (hexec : exec i s = .next t) : Inv t := by
  have hlive : s.runState ≠ .halted := by simp [hrun]
  rcases exec_next_cases hexec with ⟨hfault, rfl⟩ | ⟨reason, hfault, rfl⟩
  · obtain ⟨-, hkept⟩ := onlyChanges_effect i s
    exact h.of_live hlive (effect_runState_ne_halted hrun) (hkept .haltReason (by cases i <;> simp))
      (hkept .faultWord (by cases i <;> simp)) (effect_memory hfault h.memWf h.memInRange)
      (effect_stack hfault hpc h.stackBound h.stackEntries) (effect_pc_le hrun hfault hpc h.stackEntries)
      (effect_waitPc hrun hpc)
  · have hnone : reason ≠ .none := fun he => fault?_ne_some_none (he ▸ hfault)
    have hend : reason ≠ .endOfMemory := fun he => fault?_ne_endOfMemory (he ▸ hfault)
    exact h.raiseHalt hnone (fun he => absurd he hend) (fun _ => by omega) (fun _ => rfl)

end Effect

/-- Each move of the engine keeps the invariant. -/
theorem Inv.engineMove {s t : State} (h : Inv s) (hmove : EngineMove s t) : Inv t := by
  cases hmove with
  | halted _ => exact h
  | noKey _ n => exact h.nextKeyCalls n
  | key hrun n x b =>
    exact h.of_live (by simp [hrun]) (by simp) rfl ⟨rfl, rfl⟩ ⟨h.memWf, h.memInRange⟩ ⟨h.stackBound, h.stackEntries⟩
      (advance_pc_le rfl (h.waitPc hrun)) (by simp)
  | endOfMemory _ hpc => exact h.raiseHalt (by decide) (fun _ => ⟨hpc, rfl⟩) (fun hne => absurd rfl hne) (by decide)
  | lastByte _ hpc => exact h.raiseHalt (by decide) nofun (fun _ => hpc.le) (by decide)
  | instr hrun hpc i _ hexec => exact h.exec hrun hpc hexec
  | unknown hrun hpc e =>
    exact h.of_live (by simp [hrun]) (by simp [hrun]) rfl ⟨rfl, rfl⟩ ⟨h.memWf, h.memInRange⟩
      ⟨h.stackBound, h.stackEntries⟩ (advance_pc_le rfl hpc) (by simp [hrun])

/-- Settles O56: the ticks change nothing that the invariant reads, and every move of the engine keeps it. -/
theorem everyStepKeepsTheInvariant : Obligations.EveryStepKeepsTheInvariant := by
  unfold Obligations.EveryStepKeepsTheInvariant
  intro s t hinv hstep
  exact hinv.betweenSteps.engineMove (engineMove_of_next hstep)

end Sys2Proof
